-- ==== Sys2Proof/Word.lean ====
section
/-! DEFINITION. The words of TEDB: bytes, 32-bit bus words, and exact complex integers. -/

namespace Sys2Proof

/-- One byte of a buffer or of a bus word (20_memory.md R74). -/
abbrev Byte := BitVec 8

/-- One 32-bit bus word; bit 0 is the least significant (00_scope.md R7). -/
abbrev Word := BitVec 32

/-- A complex integer: a sample or a differential product. The arithmetic of the demodulator is exact
(00_scope.md R10, 41_demodulator.md R145), so the parts are unbounded integers. -/
structure Cplx where
  /-- the real part, I -/
  re : Int
  /-- the imaginary part, Q -/
  im : Int
deriving DecidableEq, Repr

end Sys2Proof
end

