-- ==== Sys2Proof/Syntax.lean ====
section
/-! DEFINITION. The commands of TEDB: one constructor per row of spec/opcode_table.json (30_encoding.md R102).
A command word carries no operands (R101): every operand is a register field or a buffer. -/

namespace Sys2Proof

/-- The nine commands of 30_encoding.md R102. The illegal command (R103) is no row of the table: it is a word
the decoder refuses, and the step runs it by itself. -/
inductive Instr where
  /-- 0x00, no operation (40_command.md R127) -/
  | nop
  /-- 0x01, π/4-DQPSK demodulation (41_demodulator.md R140) -/
  | demod
  /-- 0x02, frame synchronization (42_frame_sync.md R160) -/
  | sync
  /-- 0x03, burst parse with CRC check (43_burst_crc.md R182) -/
  | burst
  /-- 0x04, CRC-16-CCITT of a bit sequence (43_burst_crc.md R187) -/
  | crcGen
  /-- 0x05, tolerant CRC check of a bit sequence (43_burst_crc.md R188) -/
  | crcCheck
  /-- 0x06, validate and latch a key (44_tea.md R210) -/
  | teaKey
  /-- 0x07, ECB or CBC decryption of N blocks (44_tea.md R219) -/
  | teaDec
  /-- 0x08, decryption of exactly one block (44_tea.md R222) -/
  | teaBlk
deriving DecidableEq, Repr

end Sys2Proof
end

