-- ==== Sys2Proof/WellFormed.lean ====
section
/-! DEFINITION. Well-formedness. An instruction has no operand, so every term of `Instr` is well formed; the two
checks the spec makes are on the command WORD (30_encoding.md R101, R103). -/

namespace Sys2Proof

/-- Every command is well formed: it has no operand field that could be out of range (30_encoding.md R101). -/
def Instr.wellFormed : Instr → Bool
  | .nop => true
  | .demod => true
  | .sync => true
  | .burst => true
  | .crcGen => true
  | .crcCheck => true
  | .teaKey => true
  | .teaDec => true
  | .teaBlk => true

/-- The check on RSVD, bits [31:8] of a command word: they must be 0 (30_encoding.md R100). -/
def reservedBitsClear (w : Word) : Bool := w.extractLsb' 8 24 == 0#24

/-- The check on OPCODE, bits [7:0] of a command word: 0x09 to 0xFF are reserved (30_encoding.md R103, R104). -/
def opcodeAssigned (w : Word) : Bool := (w.extractLsb' 0 8).toNat ≤ 8

/-- A command word that is not illegal by 30_encoding.md R103. -/
def wordWellFormed (w : Word) : Bool := reservedBitsClear w && opcodeAssigned w

end Sys2Proof
end

