-- ==== Sys2Proof/Decode.lean ====
section
/-! DEFINITION. The decoder of command words (30_encoding.md R100 to R103), total and rejecting by name, and the
encoder written from the same opcode map. -/

namespace Sys2Proof

/-- Why a command word is illegal (30_encoding.md R103), or why bytes are no command word at all. -/
inductive DecodeError where
  /-- a bit of RSVD [31:8] is set (R103); this is tested first, so it also covers a word with both defects -/
  | reservedBitsSet
  /-- OPCODE is 0x09 to 0xFF (R103) -/
  | unassignedOpcode
  /-- not exactly four bytes: a command word has one length, 32 bits (R100, R105) -/
  | notOneWord
deriving DecidableEq, Repr

/-- The opcode map (30_encoding.md R102). -/
def opcodeOf? : Nat → Option Instr
  | 0x00 => some .nop
  | 0x01 => some .demod
  | 0x02 => some .sync
  | 0x03 => some .burst
  | 0x04 => some .crcGen
  | 0x05 => some .crcCheck
  | 0x06 => some .teaKey
  | 0x07 => some .teaDec
  | 0x08 => some .teaBlk
  | _ => none

/-- Decoding of a command word, total (30_encoding.md R101). -/
def decode (w : Word) : Except DecodeError Instr :=
  if w.extractLsb' 8 24 = 0#24 then
    match opcodeOf? (w.extractLsb' 0 8).toNat with
    | some i => .ok i
    | none => .error .unassignedOpcode
  else .error .reservedBitsSet

/-- The OPCODE of a command (30_encoding.md R102). -/
def opcode : Instr → Byte
  | .nop => 0x00#8
  | .demod => 0x01#8
  | .sync => 0x02#8
  | .burst => 0x03#8
  | .crcGen => 0x04#8
  | .crcCheck => 0x05#8
  | .teaKey => 0x06#8
  | .teaDec => 0x07#8
  | .teaBlk => 0x08#8

/-- The command word of a command: RSVD = 0 above OPCODE (30_encoding.md R100). -/
def encode (i : Instr) : Word := 0#24 ++ opcode i

/-- The bytes of a bus word, lowest lane first (20_memory.md R74). -/
def wordBytes (w : Word) : List Byte :=
  [w.extractLsb' 0 8, w.extractLsb' 8 8, w.extractLsb' 16 8, w.extractLsb' 24 8]

/-- Decoding of any bytes, lowest lane first (20_memory.md R74): exactly four of them make a command word. -/
def decodeBytes : List Byte → Except DecodeError Instr
  | [b0, b1, b2, b3] => decode (b3 ++ b2 ++ b1 ++ b0)
  | _ => .error .notOneWord

/-- The command word of an opcode-table row's bits: bit 0 is the least significant, bits at `nbits` and above are 0,
and a number with a bit at 32 or above is no command word (30_encoding.md R100). -/
def tableWord (nbits w : Nat) : Option Word :=
  if w % 2 ^ nbits < 2 ^ 32 then some (BitVec.ofNat 32 (w % 2 ^ nbits)) else none

/-- What the decoder reads from an instruction whose bits are `w`, laid out as the bus stores them. -/
def decodeTableWord (nbits w : Nat) : Option Instr :=
  match tableWord nbits w with
  | none => none
  | some v =>
    match decodeBytes (wordBytes v) with
    | .ok i => some i
    | .error _ => none

end Sys2Proof
end

