-- ==== Sys2Proof/Machine/Bits.lean ====
section
/-! DEFINITION. Bit sequences (00_scope.md R8) and their helpers: a sequence is a list of bits whose head is the first
in stream order. -/

namespace Sys2Proof.Machine

/-- `s[a:b)`, the half-open sub-sequence (00_scope.md R8). -/
def slice (s : List Bool) (a b : Nat) : List Bool := (s.drop a).take (b - a)

/-- `match(s, t)`: at how many positions two sequences of equal length agree (00_scope.md R8). -/
def matchCount : List Bool → List Bool → Nat
  | x :: xs, y :: ys => (if x = y then 1 else 0) + matchCount xs ys
  | _, _ => 0

/-- `val(s)`: the number whose binary digits, most significant first, are `s` (00_scope.md R8). -/
def bitsVal (s : List Bool) : Nat := s.foldl (fun v b => 2 * v + b.toNat) 0

/-- The low `n` bits of a number, most significant first. -/
def natBits : Nat → Nat → List Bool
  | 0, _ => []
  | n + 1, v => v.testBit n :: natBits n v

/-- `popcount(v)` of a 16-bit value (00_scope.md R8). -/
def popcount16 (v : BitVec 16) : Nat := (List.range 16).countP fun i => v.getLsbD i

/-- The 22 bits of a training-sequence register in stream order: bit t is register bit 21-t (10_state.md R34). -/
def patternBits (ts : BitVec 22) : List Bool := (List.range 22).map fun t => ts.getLsbD (21 - t)

/-- A word with one bit changed. -/
def setWordBit (w : Word) (i : Nat) (b : Bool) : Word :=
  if b then w ||| BitVec.twoPow 32 i else w &&& ~~~(BitVec.twoPow 32 i)

/-- Byte b of a bus word, bits [8b+7 : 8b] (20_memory.md R74). -/
def wordByte (w : Word) (b : Nat) : Byte := w.extractLsb' (8 * b) 8

/-- A big-endian word from four bytes (44_tea.md R213, R215). -/
def beWord (b0 b1 b2 b3 : Byte) : Word := b0 ++ b1 ++ b2 ++ b3

/-- The four bytes of a word, big-endian (44_tea.md R213). -/
def beBytes (w : Word) : List Byte :=
  [w.extractLsb' 24 8, w.extractLsb' 16 8, w.extractLsb' 8 8, w.extractLsb' 0 8]

/-- Bytewise exclusive or of two blocks (44_tea.md R219). -/
def xorBytes (a b : List Byte) : List Byte := List.zipWith (fun x y => x ^^^ y) a b

end Sys2Proof.Machine
end

