-- ==== Sys2Proof/Config.lean ====
section
/-! DEFINITION. What an implementation fixes (00_scope.md R6) and the free values of the model.
A free value is an opaque constant with no body: nothing can evaluate it, so a claim holds whatever it is. -/

namespace Sys2Proof

/-- SAMPLE_CAP (R6): the legal upper bound of DEMOD_NSAMP.NSAMP. -/
abbrev Config.sampleCap : Nat := 4096

/-- SYM_CAP (R6): the legal upper bound of SYM_COUNT.COUNT. -/
abbrev Config.symCap : Nat := 4096

/-- BIT_CAP (R6): the legal upper bound of CRC_NBITS.N. -/
abbrev Config.bitCap : Nat := 1024

/-- SYNC_CAP (R6): the entries of the sync result list. -/
abbrev Config.syncCap : Nat := 64

/-- CBUF_CAP (R6): the bytes of each cipher buffer. -/
abbrev Config.cbufCap : Nat := 512

/-- The length of a burst in bits (R6, 43_burst_crc.md R182). -/
abbrev Config.burstBits : Nat := 510

/-- TS1_RESET, an OPEN parameter of the spec (10_state.md R34).
DESIGN CHOICE (log 1), unsafe: the suggested value of 92_eei_decisions.md D13. -/
def Config.ts1Reset : BitVec 22 := 0x343A74#22

/-- TS2_RESET, an OPEN parameter of the spec (10_state.md R35).
DESIGN CHOICE (log 1), unsafe: the suggested value of 92_eei_decisions.md D13. -/
def Config.ts2Reset : BitVec 22 := 0x1E90DE#22

/-- The front end before its length bound (41_demodulator.md R142); `Machine.frontEnd` cuts its answer to the length
of its input, which is the one property R142 gives FE. Free (log 3), safe. -/
opaque Config.rawFrontEnd : List Cplx → List Cplx

/-- The latency of a command, in host turns, drawn at its start (40_command.md R122, 70_reset_and_hazards.md R270);
the argument is the number of the draw. Free and finite (log 4), safe. -/
opaque Config.latency : Nat → Nat

/-- The byte at an address that nothing has written since a hardware reset (70_reset_and_hazards.md R261); the
arguments are the number of the draw made at that reset and the address. Free, fixed until written (log 5), safe. -/
opaque Config.unwrittenByte : Nat → Nat → Byte

/-- What a read of a running command's output returns (40_command.md R126); the argument is the number of the
draw, new at each read. Free (log 6), safe. -/
opaque Config.busyRead : Nat → Word

/-- An output word of an abandoned command (40_command.md R129, 70_reset_and_hazards.md R268); the arguments are the
number of the draw and the byte offset of the word. Free, fixed until written (log 7), safe. -/
opaque Config.abandonedWord : Nat → Nat → Word

end Sys2Proof
end

