-- ==== Sys2Proof/Machine/State.lean ====
section
/-! DEFINITION. The state of TEDB as plain data: every register field of 10_state.md at its own width (a reserved bit
is no state: it reads 0 and ignores writes, 20_memory.md R73), the buffers, the latched key, the engine, the reset
pin, and the model's own fields (the host's coming transactions, the last bus response, the counter of free draws). -/

namespace Sys2Proof.Machine

/-- The buffers of 20_memory.md R71, by byte offset within the window. A cell stands for a byte that something has
written since the last hardware reset; `draw` names the free draw made at that reset, from which every byte that is
not listed reads (70_reset_and_hazards.md R261, log 5). The canonical form is `Memory.wf`: offsets strictly rising. -/
structure Memory where
  /-- the written bytes, by strictly rising byte offset -/
  cells : List Host.Cell
  /-- the number of the free draw that the unwritten bytes belong to -/
  draw : Nat
deriving DecidableEq, Repr

/-- ENG (10_state.md R57): Idle, or Running. The running op is the decoding of CMD.WORD, which cannot change while the
engine runs (log 10). The delay is how many host turns come before the completion step (log 4). -/
inductive Engine where
  | idle
  | running (delay : Nat)
deriving DecidableEq, Repr

/-- STATUS (10_state.md R24), but for BUSY, which is a view of ENG (R57). -/
structure StatusReg where
  done : Bool
  code : Byte
  op : Byte
  wbusy : Bool
deriving DecidableEq, Repr

/-- IRQ_EN (10_state.md R25) and IRQ_STATUS (R26). -/
structure IrqRegs where
  doneEn : Bool
  errEn : Bool
  done : Bool
  err : Bool
deriving DecidableEq, Repr

/-- DEMOD_CFG (10_state.md R29) and DEMOD_NSAMP (R30). -/
structure DemodRegs where
  sps : BitVec 8
  feEn : Bool
  nsamp : BitVec 13
deriving DecidableEq, Repr

/-- DEMOD_PHASE (10_state.md R31) and DEMOD_NFE (R32). -/
structure DemodOut where
  phase : BitVec 8
  nfe : BitVec 13
deriving DecidableEq, Repr

/-- The synchronizer's operand registers, SYNC_TS1 to SYNC_START (10_state.md R34 to R39). -/
structure SyncRegs where
  ts1 : BitVec 22
  ts2 : BitVec 22
  thr0 : BitVec 16
  thr1 : BitVec 16
  thr2 : BitVec 16
  floor : BitVec 16
  margin : BitVec 16
  skip : BitVec 16
  start : BitVec 14
deriving DecidableEq, Repr

/-- SYNC_RESULT (10_state.md R40). -/
structure SyncResult where
  count : BitVec 7
  ovf : Bool
  best : BitVec 5
  pass : BitVec 3
deriving DecidableEq, Repr

/-- BURST_START (10_state.md R41) and BURST_CFG (R42). -/
structure BurstRegs where
  start : BitVec 14
  syncThr : BitVec 16
deriving DecidableEq, Repr

/-- BURST_RESULT (10_state.md R43); `btype` is its field TYPE. -/
structure BurstResult where
  btype : BitVec 3
  crcOk : Bool
  tsLen : BitVec 5
  midMatch : BitVec 5
deriving DecidableEq, Repr

/-- CRC_NBITS (10_state.md R45) and CRC_CFG (R46). -/
structure CrcRegs where
  nbits : BitVec 11
  maxHd : BitVec 5
deriving DecidableEq, Repr

/-- CRC_VALUE (10_state.md R47). -/
structure CrcValue where
  nat : BitVec 16
  rev : BitVec 16
deriving DecidableEq, Repr

/-- CRC_RESULT (10_state.md R48). -/
structure CrcResult where
  ok : Bool
  order : Bool
  hdNat : BitVec 5
  hdRev : BitVec 5
  rx : BitVec 16
deriving DecidableEq, Repr

/-- TEA_CFG to TEA_LEN (10_state.md R49 to R53); `cbc` is TEA_CFG.MODE. -/
structure TeaRegs where
  alg : BitVec 3
  cbc : Bool
  keyLen : BitVec 8
  key0 : Word
  key1 : Word
  key2 : Word
  key3 : Word
  iv0 : Word
  iv1 : Word
  len : BitVec 10
deriving DecidableEq, Repr

/-- LK, the latched key (10_state.md R56). TEA_STATE (R54) is a view of it. -/
structure LatchedKey where
  valid : Bool
  alg : BitVec 3
  len : BitVec 8
  bytes : Vector Byte 16
deriving DecidableEq, Repr

/-- One host bus transaction (20_memory.md R70): how many bytes wide, at which byte offset. The value of a write that
is not 4 bytes wide does not matter, since such a write is not performed. -/
inductive Access where
  | read (bytes offset : Nat)
  | write (bytes offset : Nat) (value : Word)
deriving DecidableEq, Repr

/-- One turn of the outside world (log 9): no access, one access, or an edge of `rst_n` (70_reset_and_hazards.md R260). -/
inductive Input where
  | idle
  | access (a : Access)
  | assertReset
  | releaseReset
deriving DecidableEq, Repr

/-- The bus response to a host access (20_memory.md R70, 60_exceptions.md R242): the word a read returns, the
acceptance of a write (also of one that is dropped or ignored), or a bus error (log 11). -/
inductive BusResponse where
  | data (w : Word)
  | accepted
  | busError
deriving DecidableEq, Repr

/-- The whole machine. Plain data. -/
structure State where
  /-- CMD.WORD (R23) -/
  cmd : Word
  /-- STATUS but for BUSY (R24) -/
  status : StatusReg
  /-- IRQ_EN and IRQ_STATUS (R25, R26) -/
  irq : IrqRegs
  /-- ERR_INFO.INFO (R28) -/
  errInfo : Word
  /-- DEMOD_CFG and DEMOD_NSAMP (R29, R30) -/
  demod : DemodRegs
  /-- DEMOD_PHASE and DEMOD_NFE (R31, R32) -/
  demodOut : DemodOut
  /-- SYM_COUNT.COUNT (R33) -/
  symCount : BitVec 13
  /-- SYNC_TS1 to SYNC_START (R34 to R39) -/
  sync : SyncRegs
  /-- SYNC_RESULT (R40) -/
  syncResult : SyncResult
  /-- BURST_START and BURST_CFG (R41, R42) -/
  burst : BurstRegs
  /-- BURST_RESULT (R43) -/
  burstResult : BurstResult
  /-- BURST_TS.TS (R44) -/
  burstTs : BitVec 22
  /-- CRC_NBITS and CRC_CFG (R45, R46) -/
  crc : CrcRegs
  /-- CRC_VALUE (R47) -/
  crcValue : CrcValue
  /-- CRC_RESULT (R48) -/
  crcResult : CrcResult
  /-- TEA_CFG to TEA_LEN (R49 to R53) -/
  tea : TeaRegs
  /-- TEA_NBLK.N (R55) -/
  teaNblk : BitVec 7
  /-- LK (R56) -/
  lk : LatchedKey
  /-- ENG (R57) -/
  eng : Engine
  /-- SYNC_OUT, BITBUF, CIN, COUT, SYMBUF and SAMPLES (20_memory.md R71) -/
  mem : Memory
  /-- the level of the pin `rst_n`: false while the hardware reset is asserted (R260) -/
  rstN : Bool
  /-- MODEL'S OWN: the coming turns of the outside world (log 9) -/
  inputs : List Input
  /-- MODEL'S OWN: the bus response to the last host access (log 11) -/
  response : Option BusResponse
  /-- MODEL'S OWN: how many free values have been drawn (log 16) -/
  draws : Nat
deriving DecidableEq, Repr

/-- No step faults: every outcome of the block is a completion code or a bus error response, never a halt
(60_exceptions.md, its opening; 93_implementation_defined.md part 1: `stuck` does not occur). No constructor: safe. -/
inductive Fault where
deriving DecidableEq, Repr

/-- Why `exec` may have no meaning for an instruction. -/
inductive Refusal where
  /-- raised by an arm of `exec` whose instruction has no meaning yet; no arm raises it. Safe: the machine stops. -/
  | notModelled (mnemonic : String)
deriving DecidableEq, Repr

/-- LK cleared (10_state.md R56). -/
def LatchedKey.cleared : LatchedKey where
  valid := false
  alg := 0#3
  len := 0#8
  bytes := #v[0#8, 0#8, 0#8, 0#8, 0#8, 0#8, 0#8, 0#8, 0#8, 0#8, 0#8, 0#8, 0#8, 0#8, 0#8, 0#8]

/-- The machine right after a hardware reset, `rst_n` released (70_reset_and_hazards.md R260, R262): every register
field at the value of the reset column of its table (10_state.md R59), LK cleared, ENG Idle, the buffers unwritten
(R261). The model's own fields: no coming input, no response, draw 0 made for the buffers (log 16). -/
def State.reset : State where
  cmd := 0#32
  status := { done := false, code := 0x00#8, op := 0x00#8, wbusy := false }
  irq := { doneEn := false, errEn := false, done := false, err := false }
  errInfo := 0#32
  demod := { sps := 13#8, feEn := true, nsamp := 0#13 }
  demodOut := { phase := 0#8, nfe := 0#13 }
  symCount := 0#13
  sync :=
    { ts1 := Config.ts1Reset, ts2 := Config.ts2Reset
      thr0 := 900#16, thr1 := 850#16, thr2 := 800#16, floor := 750#16
      margin := 20#16, skip := 250#16, start := 0#14 }
  syncResult := { count := 0#7, ovf := false, best := 0#5, pass := 7#3 }
  burst := { start := 0#14, syncThr := 800#16 }
  burstResult := { btype := 0#3, crcOk := false, tsLen := 0#5, midMatch := 0#5 }
  burstTs := 0#22
  crc := { nbits := 0#11, maxHd := 2#5 }
  crcValue := { nat := 0#16, rev := 0#16 }
  crcResult := { ok := false, order := false, hdNat := 0#5, hdRev := 0#5, rx := 0#16 }
  tea :=
    { alg := 0#3, cbc := false, keyLen := 0#8, key0 := 0#32, key1 := 0#32, key2 := 0#32, key3 := 0#32
      iv0 := 0#32, iv1 := 0#32, len := 0#10 }
  teaNblk := 0#7
  lk := LatchedKey.cleared
  eng := .idle
  mem := { cells := [], draw := 0 }
  rstN := true
  inputs := []
  response := none
  draws := 1

end Sys2Proof.Machine
end

