-- ==== Sys2Proof/Machine/Ops.lean ====
section
/-! DEFINITION. The named operations over the buffers and registers, and the shared life cycle of commands: start
(40_command.md R121), completion (R123), which is the block's counterpart of taking an exception (60_exceptions.md
R247), and the acknowledgement, its counterpart of a return (R248). -/

namespace Sys2Proof.Machine

/-! ## The buffers -/

/-- The byte listed at an address, if one is. -/
def cellsGet : List Host.Cell → Nat → Option Byte
  | [], _ => none
  | (x, v) :: m, a => if a = x then some v else cellsGet m a

/-- The cells with one byte written, in the place that keeps the addresses rising. -/
def cellsSet : List Host.Cell → Nat → Byte → List Host.Cell
  | [], a, b => [(a, b)]
  | (x, v) :: m, a, b =>
    if a < x then (a, b) :: (x, v) :: m
    else if a = x then (a, b) :: m
    else (x, v) :: cellsSet m a b

/-- The addresses of the cells strictly rise. -/
def cellsRising : List Host.Cell → Bool
  | [] => true
  | [_] => true
  | (x, _) :: (y, v) :: m => decide (x < y) && cellsRising ((y, v) :: m)

/-- The canonical form of the buffers (log 5). -/
def Memory.wf (m : Memory) : Bool := cellsRising m.cells

/-- What a byte that nothing has written reads as: the free value of the memory's draw (70_reset_and_hazards.md R261). -/
def Memory.unlisted (m : Memory) (a : Nat) : Byte := Config.unwrittenByte m.draw a

/-- The byte at an address. -/
def Memory.byte (m : Memory) (a : Nat) : Byte := (cellsGet m.cells a).getD (m.unlisted a)

/-- The buffers with one byte written. -/
def Memory.setByte (m : Memory) (a : Nat) (b : Byte) : Memory := { m with cells := cellsSet m.cells a b }

/-- The bus word at a byte offset, little-endian (20_memory.md R74). -/
def Memory.word (m : Memory) (a : Nat) : Word :=
  m.byte (a + 3) ++ m.byte (a + 2) ++ m.byte (a + 1) ++ m.byte a

/-- The buffers with one bus word written, little-endian (20_memory.md R74). -/
def Memory.setWord (m : Memory) (a : Nat) (w : Word) : Memory :=
  (((m.setByte a (wordByte w 0)).setByte (a + 1) (wordByte w 1)).setByte (a + 2) (wordByte w 2)).setByte
    (a + 3) (wordByte w 3)

/-- The buffers with consecutive bytes written. -/
def Memory.setBytes (m : Memory) (a : Nat) : List Byte → Memory
  | [] => m
  | b :: bs => Memory.setBytes (m.setByte a b) (a + 1) bs

/-- The buffers with consecutive words written. -/
def Memory.setWords (m : Memory) (a : Nat) : List Word → Memory
  | [] => m
  | w :: ws => Memory.setWords (m.setWord a w) (a + 4) ws

/-- The byte offset of the word that holds bit `j` of a bit-organised buffer (20_memory.md R80, R81). -/
def bitWordAt (base j : Nat) : Nat := base + 4 * (j / 32)

/-- Bit `j` of a bit-organised buffer: bit 31 - (j mod 32) of word j div 32 (20_memory.md R80, R81). -/
def Memory.bit (m : Memory) (base j : Nat) : Bool := (m.word (bitWordAt base j)).getLsbD (31 - j % 32)

/-- The buffers with bit `j` of a bit-organised buffer written; the other bits of its word keep their values. -/
def Memory.setBit (m : Memory) (base j : Nat) (b : Bool) : Memory :=
  m.setWord (bitWordAt base j) (setWordBit (m.word (bitWordAt base j)) (31 - j % 32) b)

/-- The buffers with consecutive bits written from bit `j` on. -/
def Memory.setBits (m : Memory) (base j : Nat) : List Bool → Memory
  | [] => m
  | b :: bs => Memory.setBits (m.setBit base j b) base (j + 1) bs

/-! ## Completion codes -/

/-- The completion codes of 60_exceptions.md R240. -/
inductive Code where
  | ok
  | noResult
  | keyLength
  | unknownAlg
  | dataLength
  | blockSize
  | noKey
  | badCommand
  | config
deriving DecidableEq, Repr

/-- The value of a completion code in STATUS.CODE (60_exceptions.md R240). -/
def Code.byte : Code → Byte
  | .ok => 0x00#8
  | .noResult => 0x01#8
  | .keyLength => 0x02#8
  | .unknownAlg => 0x03#8
  | .dataLength => 0x04#8
  | .blockSize => 0x05#8
  | .noKey => 0x06#8
  | .badCommand => 0x07#8
  | .config => 0x08#8

/-- An error is a code of 0x02 or above (40_command.md R123, 60_exceptions.md R240). -/
def Code.isError (c : Code) : Bool := decide (0x02 ≤ c.byte.toNat)

/-! ## The life cycle -/

/-- Whether ENG is Running, which is STATUS.BUSY (10_state.md R57). -/
def State.busy (s : State) : Bool :=
  match s.eng with
  | .idle => false
  | .running _ => true

/-- The start of a command with a given delay before its completion (40_command.md R121). ERR_INFO, IRQ_STATUS, WBUSY
and every output keep their values. -/
def State.start (s : State) (w : Word) (delay : Nat) : State :=
  { s with
    cmd := w
    status := { done := false, code := 0x00#8, op := w.extractLsb' 0 8, wbusy := s.status.wbusy }
    eng := .running delay }

/-- `complete(code, info)` (40_command.md R123), apart from the outputs, which the caller has written exactly when the
code is OK (R124). For an error code this is the block's counterpart of trap entry (60_exceptions.md R247). -/
def State.complete (s : State) (code : Code) (info : Word) : State :=
  { s with
    errInfo := if code.isError then info else 0#32
    status := { s.status with code := code.byte, done := true }
    irq := { s.irq with done := true, err := s.irq.err || code.isError }
    eng := .idle }

/-- The acknowledgement, the counterpart of a return (60_exceptions.md R248): a write to IRQ_STATUS clears the flags
whose bits are 1 (W1C, 10_state.md R26, R245). -/
def State.ackIrq (s : State) (v : Word) : State :=
  { s with irq := { s.irq with
      done := s.irq.done && !v.getLsbD 0
      err := s.irq.err && !v.getLsbD 1 } }

/-- The completion of the illegal command (40_command.md R128): BAD_COMMAND with the whole word. -/
def State.completeIllegal (s : State) : State := s.complete .badCommand s.cmd

end Sys2Proof.Machine
end

