-- ==== Sys2Proof/Machine/Operands.lean ====
section
/-! DEFINITION. Operand assembly (30_encoding.md R106): the buffer map and accessors of 20_memory.md R71 and R78 to R83,
the key and IV bytes of 10_state.md R51 and R52. -/

namespace Sys2Proof.Machine

/-! ## The address map (20_memory.md R71) -/

/-- The byte offset of SYNC_OUT. -/
def syncOutBase : Nat := 0x0100

/-- The byte offset of BITBUF. -/
def bitbufBase : Nat := 0x0200

/-- The byte offset of CIN. -/
def cinBase : Nat := 0x0400

/-- The byte offset of COUT. -/
def coutBase : Nat := 0x0600

/-- The byte offset of SYMBUF. -/
def symbufBase : Nat := 0x0800

/-- The byte offset of SAMPLES. -/
def samplesBase : Nat := 0x4000

/-- The regions of the window. -/
inductive Region where
  | regs
  | syncOut
  | bitbuf
  | cin
  | cout
  | symbuf
  | samples
  | reserved
deriving DecidableEq, Repr

/-- The region of a byte offset of the window. -/
def regionOf (off : Nat) : Region :=
  if off < 0x0100 then .regs
  else if off < 0x0200 then .syncOut
  else if off < 0x0280 then .bitbuf
  else if off < 0x0400 then .reserved
  else if off < 0x0600 then .cin
  else if off < 0x0800 then .cout
  else if off < 0x0C00 then .symbuf
  else if off < 0x4000 then .reserved
  else if off < 0x8000 then .samples
  else .reserved

/-- A byte offset that a buffer holds. -/
def isBuffer (off : Nat) : Bool := regionOf off != .regs && regionOf off != .reserved

/-! ## The accessors -/

/-- SAMPLE(k) (20_memory.md R78): I in bits [15:0] and Q in bits [31:16] of SAMPLES word k, both two's complement. -/
def Memory.sample (m : Memory) (k : Nat) : Cplx :=
  let w := m.word (samplesBase + 4 * k)
  { re := (w.extractLsb' 0 16).toInt, im := (w.extractLsb' 16 16).toInt }

/-- SYM(k) (20_memory.md R79): bits [31-p : 30-p] of SYMBUF word k div 16, with p = 2·(k mod 16). -/
def Memory.sym (m : Memory) (k : Nat) : BitVec 2 :=
  (m.word (symbufBase + 4 * (k / 16))).extractLsb' (30 - 2 * (k % 16)) 2

/-- SBIT(j), the symbol bit view (20_memory.md R80). -/
def Memory.sbit (m : Memory) (j : Nat) : Bool := m.bit symbufBase j

/-- BBIT(j) (20_memory.md R81). -/
def Memory.bbit (m : Memory) (j : Nat) : Bool := m.bit bitbufBase j

/-- CIN(i) (20_memory.md R82): byte lane i mod 4 of CIN word i div 4, which is the byte at offset 0x0400 + i (R74). -/
def Memory.cin (m : Memory) (i : Nat) : Byte := m.byte (cinBase + i)

/-- COUT(i) (20_memory.md R82). -/
def Memory.cout (m : Memory) (i : Nat) : Byte := m.byte (coutBase + i)

/-- SYNC_OUT(e) (20_memory.md R83). -/
def Memory.syncOut (m : Memory) (e : Nat) : Word := m.word (syncOutBase + 4 * e)

/-- A word of the sync list: OFFSET [13:0] and MATCH [20:16], the other bits 0 (20_memory.md R83). -/
def syncEntry (offset count : Nat) : Word := 0#11 ++ BitVec.ofNat 5 count ++ 0#2 ++ BitVec.ofNat 14 offset

/-- `(SBIT(a), …, SBIT(a + n - 1))`. -/
def Memory.sbits (m : Memory) (a n : Nat) : List Bool := (List.range n).map fun t => m.sbit (a + t)

/-- `(BBIT(0), …, BBIT(n - 1))`. -/
def Memory.bbits (m : Memory) (n : Nat) : List Bool := (List.range n).map fun t => m.bbit t

/-- `(SAMPLE(0), …, SAMPLE(n - 1))`. -/
def Memory.samples (m : Memory) (n : Nat) : List Cplx := (List.range n).map fun k => m.sample k

/-- The i-th 8-byte block of the cipher input buffer, `(CIN(8i), …, CIN(8i+7))` (44_tea.md R219). -/
def Memory.cinBlock (m : Memory) (i : Nat) : List Byte := (List.range 8).map fun j => m.cin (8 * i + j)

/-- The two bits of a symbol, MSB first (20_memory.md R80). -/
def symBits (q : BitVec 2) : List Bool := [q.getLsbD 1, q.getLsbD 0]

/-- The buffers with consecutive symbols written from SYM(k) on; symbol k is bits 2k and 2k+1 of the symbol bit
view (20_memory.md R79, R80), and every other bit keeps its value. -/
def Memory.setSyms (m : Memory) (k : Nat) (qs : List (BitVec 2)) : Memory :=
  m.setBits symbufBase (2 * k) (qs.flatMap symBits)

/-! ## Keys and initialization vector -/

/-- TEA_KEY0 to TEA_KEY3 by number (10_state.md R51). -/
def TeaRegs.keyWord (r : TeaRegs) : Nat → Word
  | 0 => r.key0
  | 1 => r.key1
  | 2 => r.key2
  | _ => r.key3

/-- Key byte i (10_state.md R51): byte lane i mod 4 of TEA_KEY<i div 4>. -/
def TeaRegs.keyByte (r : TeaRegs) (i : Nat) : Byte := wordByte (r.keyWord (i / 4)) (i % 4)

/-- TEA_IV0 and TEA_IV1 by number (10_state.md R52). -/
def TeaRegs.ivWord (r : TeaRegs) : Nat → Word
  | 0 => r.iv0
  | _ => r.iv1

/-- IV byte i (10_state.md R52): byte lane i mod 4 of TEA_IV<i div 4>. -/
def TeaRegs.ivByte (r : TeaRegs) (i : Nat) : Byte := wordByte (r.ivWord (i / 4)) (i % 4)

/-- The eight IV bytes, byte 0 first (44_tea.md R219). -/
def TeaRegs.ivBytes (r : TeaRegs) : List Byte := (List.range 8).map fun i => r.ivByte i

/-- LK.bytes[i] (10_state.md R56). -/
def LatchedKey.byte (k : LatchedKey) (i : Nat) : Byte := k.bytes.toList.getD i 0#8

end Sys2Proof.Machine
end

