-- ==== Sys2Proof/Machine/Crc.lean ====
section
/-! DEFINITION. CRC-16-CCITT and its tolerant check (43_burst_crc.md R180, R181), CRC_GEN (R187) and CRC_CHECK (R188). -/

namespace Sys2Proof.Machine

/-- One XOR-and-shift (43_burst_crc.md R180). -/
def crcStep (r : BitVec 16) (b : Bool) : BitVec 16 :=
  if (r.getLsbD 15 ^^ b) then (r <<< 1) ^^^ 0x1021#16 else r <<< 1

/-- `crc16(s)` (43_burst_crc.md R180). -/
def crc16 (s : List Bool) : BitVec 16 := s.foldl crcStep 0xFFFF#16

/-- What the tolerant check reports (43_burst_crc.md R181). -/
structure CrcReport where
  ok : Bool
  order : Bool
  hn : Nat
  hr : Nat
  cn : BitVec 16
  cr : BitVec 16
  rx : BitVec 16
deriving DecidableEq, Repr

/-- `crc_check(d)` (43_burst_crc.md R181): the natural order first, then the reversed payload; the received CRC is the
last 16 bits, first bit most significant, and is not reversed. -/
def crcCheck (maxHd : Nat) (d : List Bool) : CrcReport :=
  let payload := slice d 0 (d.length - 16)
  let rx := BitVec.ofNat 16 (bitsVal (slice d (d.length - 16) d.length))
  let cn := crc16 payload
  let hn := popcount16 (cn ^^^ rx)
  let cr := crc16 payload.reverse
  let hr := popcount16 (cr ^^^ rx)
  if hn ≤ maxHd then { ok := true, order := false, hn := hn, hr := hr, cn := cn, cr := cr, rx := rx }
  else if hr ≤ maxHd then { ok := true, order := true, hn := hn, hr := hr, cn := cn, cr := cr, rx := rx }
  else { ok := false, order := false, hn := hn, hr := hr, cn := cn, cr := cr, rx := rx }

/-- CRC_VALUE from a report (43_burst_crc.md R186, R188). -/
def CrcReport.value (r : CrcReport) : CrcValue where
  nat := r.cn
  rev := r.cr

/-- CRC_RESULT from a report (43_burst_crc.md R186, R188). -/
def CrcReport.result (r : CrcReport) : CrcResult where
  ok := r.ok
  order := r.order
  hdNat := BitVec.ofNat 5 r.hn
  hdRev := BitVec.ofNat 5 r.hr
  rx := r.rx

/-- The first N bits of the bit buffer, N = CRC_NBITS.N (43_burst_crc.md R187, R188). -/
def State.crcInput (s : State) : List Bool := s.mem.bbits s.crc.nbits.toNat

/-- The outputs of CRC_GEN (43_burst_crc.md R187). -/
def State.crcGenOutputs (s : State) : State :=
  { s with crcValue := { nat := crc16 s.crcInput, rev := crc16 s.crcInput.reverse } }

/-- CRC_GEN (43_burst_crc.md R187). -/
def execCrcGen (s : State) : Host.Outcome State Fault Refusal :=
  if Config.bitCap < s.crc.nbits.toNat then .next (s.complete .config 0x070#32)
  else .next (s.crcGenOutputs.complete .ok 0#32)

/-- The report of a CRC_CHECK in this state. -/
def State.crcReport (s : State) : CrcReport := crcCheck s.crc.maxHd.toNat s.crcInput

/-- The outputs of CRC_CHECK (43_burst_crc.md R188). -/
def State.crcCheckOutputs (s : State) : State :=
  { s with crcValue := s.crcReport.value, crcResult := s.crcReport.result }

/-- CRC_CHECK (43_burst_crc.md R188). -/
def execCrcCheck (s : State) : Host.Outcome State Fault Refusal :=
  if Config.bitCap < s.crc.nbits.toNat then .next (s.complete .config 0x070#32)
  else if s.crc.nbits.toNat < 16 then .next (s.complete .noResult 0#32)
  else .next (s.crcCheckOutputs.complete .ok 0#32)

end Sys2Proof.Machine
end

