-- ==== Sys2Proof/Machine/Sync.lean ====
section
/-! DEFINITION. SYNC, the frame synchronizer (42_frame_sync.md). -/

namespace Sys2Proof.Machine

/-- The larger of the match counts of a window against the two patterns (42_frame_sync.md R163). -/
def windowCount (p1 p2 w : List Bool) : Nat := max (matchCount w p1) (matchCount w p2)

/-- `(c_0, …, c_{L-22})` (42_frame_sync.md R163). -/
def offsetCounts (p1 p2 b : List Bool) : List Nat :=
  (List.range (b.length - 21)).map fun i => windowCount p1 p2 (slice b i (i + 22))

/-- `B`, the best match count over every offset (42_frame_sync.md R164). -/
def bestCount (c : List Nat) : Nat := c.foldl max 0

/-- The loop of `scan(Q)` from offset i (42_frame_sync.md R165), with at most the given number of turns. -/
def scanFrom (Q : Nat → Bool) (c : List Nat) (skip : Nat) : Nat → Nat → List Nat
  | 0, _ => []
  | turns + 1, i =>
    if i < c.length then
      if Q (c.getD i 0) then i :: scanFrom Q c skip turns (i + skip) else scanFrom Q c skip turns (i + 1)
    else []

/-- `scan(Q)` (42_frame_sync.md R165). Each turn moves on by at least one offset (SKIP ≥ 1, R161), so as many turns as
there are offsets are enough. -/
def scan (Q : Nat → Bool) (c : List Nat) (skip : Nat) : List Nat := scanFrom Q c skip c.length 0

/-- The predicate of a threshold pass: `1000·c ≥ 22·Th` (42_frame_sync.md R166). -/
def meets (th : Nat) (c : Nat) : Bool := decide (22 * th ≤ 1000 * c)

/-- `A`, the adaptive threshold (42_frame_sync.md R167), an exact integer. -/
def adaptiveThreshold (floor margin best : Nat) : Int :=
  max (22 * (floor : Int)) (1000 * (best : Int) - 22 * (margin : Int))

/-- What the search ends with: the pass and its list (42_frame_sync.md R166 to R168). -/
structure SyncFind where
  pass : Nat
  list : List Nat
deriving DecidableEq, Repr

/-- The cascade and the adaptive pass (42_frame_sync.md R166, R167). -/
def syncSearch (r : SyncRegs) (c : List Nat) : SyncFind :=
  let pass0 := scan (meets r.thr0.toNat) c r.skip.toNat
  let pass1 := scan (meets r.thr1.toNat) c r.skip.toNat
  let pass2 := scan (meets r.thr2.toNat) c r.skip.toNat
  if pass0 ≠ [] then { pass := 0, list := pass0 }
  else if pass1 ≠ [] then { pass := 1, list := pass1 }
  else if pass2 ≠ [] then { pass := 2, list := pass2 }
  else if 22 * r.floor.toNat ≤ 1000 * bestCount c then
    let a := adaptiveThreshold r.floor.toNat r.margin.toNat (bestCount c)
    { pass := 3, list := scan (fun n => decide (a ≤ 1000 * (n : Int))) c r.skip.toNat }
  else { pass := 7, list := [] }

/-- `L`, the number of bits scanned (42_frame_sync.md R162). -/
def State.syncLength (s : State) : Nat :=
  if s.sync.start.toNat ≤ 2 * s.symCount.toNat then 2 * s.symCount.toNat - s.sync.start.toNat else 0

/-- The scanned sequence `b` (42_frame_sync.md R162). -/
def State.syncBits (s : State) : List Bool := s.mem.sbits s.sync.start.toNat s.syncLength

/-- The match counts of a SYNC in this state. -/
def State.syncCounts (s : State) : List Nat :=
  offsetCounts (patternBits s.sync.ts1) (patternBits s.sync.ts2) s.syncBits

/-- What a SYNC in this state finds. -/
def State.syncFound (s : State) : SyncFind := syncSearch s.sync s.syncCounts

/-- The sync list entries `SYNC_OUT(0) … SYNC_OUT(K-1)` (42_frame_sync.md R168). -/
def State.syncEntries (s : State) : List Word :=
  (s.syncFound.list.take Config.syncCap).map fun i => syncEntry (s.sync.start.toNat + i) (s.syncCounts.getD i 0)

/-- The outputs of SYNC, `finish(pass, list)` (42_frame_sync.md R168). -/
def State.syncOutputs (s : State) : State :=
  { s with
    mem := s.mem.setWords syncOutBase s.syncEntries
    syncResult :=
      { count := BitVec.ofNat 7 (min s.syncFound.list.length Config.syncCap)
        ovf := decide (Config.syncCap < s.syncFound.list.length)
        best := BitVec.ofNat 5 (bestCount s.syncCounts)
        pass := BitVec.ofNat 3 s.syncFound.pass } }

/-- The check that fails, if one does (42_frame_sync.md R161, R162). -/
def State.syncCheck (s : State) : Option (Code × Word) :=
  if Config.symCap < s.symCount.toNat then some (.config, 0x030#32)
  else if s.sync.skip.toNat = 0 then some (.config, 0x050#32)
  else if s.syncLength < 22 then some (.noResult, 0#32)
  else none

/-- SYNC (42_frame_sync.md R160 to R168). -/
def execSync (s : State) : Host.Outcome State Fault Refusal :=
  match s.syncCheck with
  | some (code, info) => .next (s.complete code info)
  | none => .next (s.syncOutputs.complete .ok 0#32)

end Sys2Proof.Machine
end

