-- ==== Sys2Proof/Machine/Burst.lean ====
section
/-! DEFINITION. BURST, the burst parser (43_burst_crc.md R182 to R186). -/

namespace Sys2Proof.Machine

/-- The 510 bits of the burst (43_burst_crc.md R183). -/
def State.burstBits (s : State) : List Bool := s.mem.sbits s.burst.start.toNat Config.burstBits

/-- `m`, the match count of the midpoint window `b[244:266)` (43_burst_crc.md R184). -/
def State.midMatch (s : State) : Nat :=
  windowCount (patternBits s.sync.ts1) (patternBits s.sync.ts2) (slice s.burstBits 244 266)

/-- Whether the burst is a synchronization burst: strictly above the threshold (43_burst_crc.md R184). -/
def State.isSyncBurst (s : State) : Bool := decide (22 * s.burst.syncThr.toNat < 1000 * s.midMatch)

/-- TYPE (43_burst_crc.md R184): 4 Synchronization, 1 NormalDownlink. -/
def State.burstType (s : State) : Nat := if s.isSyncBurst then 4 else 1

/-- `ts` (43_burst_crc.md R185): 22 or 14 bits. -/
def State.burstTraining (s : State) : List Bool :=
  if s.isSyncBurst then slice s.burstBits 108 130 else slice s.burstBits 108 122

/-- `data` (43_burst_crc.md R185): 216 bits, whatever the type. -/
def State.burstData (s : State) : List Bool := slice s.burstBits 0 108 ++ slice s.burstBits 122 230

/-- The report of the CRC check of the data bits (43_burst_crc.md R186). -/
def State.burstReport (s : State) : CrcReport := crcCheck s.crc.maxHd.toNat s.burstData

/-- The outputs of BURST (43_burst_crc.md R186). -/
def State.burstOutputs (s : State) : State :=
  { s with
    mem := s.mem.setBits bitbufBase 0 s.burstData
    burstResult :=
      { btype := BitVec.ofNat 3 s.burstType
        crcOk := s.burstReport.ok
        tsLen := BitVec.ofNat 5 s.burstTraining.length
        midMatch := BitVec.ofNat 5 s.midMatch }
    burstTs := BitVec.ofNat 22 (bitsVal s.burstTraining)
    crcValue := s.burstReport.value
    crcResult := s.burstReport.result }

/-- The check that fails, if one does (43_burst_crc.md R183). -/
def State.burstCheck (s : State) : Option (Code × Word) :=
  if Config.symCap < s.symCount.toNat then some (.config, 0x030#32)
  else if 2 * s.symCount.toNat < s.burst.start.toNat + Config.burstBits then some (.noResult, 0#32)
  else none

/-- BURST (43_burst_crc.md R182 to R186). -/
def execBurst (s : State) : Host.Outcome State Fault Refusal :=
  match s.burstCheck with
  | some (code, info) => .next (s.complete code info)
  | none => .next (s.burstOutputs.complete .ok 0#32)

end Sys2Proof.Machine
end

