-- ==== Sys2Proof/Machine/Demod.lean ====
section
/-! DEFINITION. DEMOD, the π/4-DQPSK demodulator (41_demodulator.md). -/

namespace Sys2Proof.Machine

/-- FE (41_demodulator.md R142): an open function whose answer is no longer than its input. Every such function is a
value of `Config.rawFrontEnd`, so nothing else is assumed of it (log 3). -/
def frontEnd (u : List Cplx) : List Cplx := (Config.rawFrontEnd u).take u.length

/-- `x` of 41_demodulator.md R142: the samples after the front end, or as they are when FE_EN = 0. -/
def demodInput (feEn : Bool) (u : List Cplx) : List Cplx := if feEn then frontEnd u else u

/-- `n_p` (41_demodulator.md R143): how many of N samples stand at phase p, one every S. -/
def phaseCount (N S p : Nat) : Nat := if p < N then (N - 1 - p) / S + 1 else 0

/-- `x[p + k·S]` for k = 0 … n_p - 1 (41_demodulator.md R143, R144). -/
def phaseSamples (x : List Cplx) (S p : Nat) : List Cplx :=
  (List.range (phaseCount x.length S p)).map fun k => x.getD (p + k * S) { re := 0, im := 0 }

/-- I² + Q² of a sample. -/
def power (c : Cplx) : Int := c.re * c.re + c.im * c.im

/-- `E_p` (41_demodulator.md R143). -/
def phaseEnergy (x : List Cplx) (S p : Nat) : Int := ((phaseSamples x S p).map power).sum

/-- A candidate phase with its energy and its count. -/
structure Candidate where
  phase : Nat
  energy : Int
  count : Nat
deriving DecidableEq, Repr

/-- `C` (41_demodulator.md R143), in rising order of phase: the phases below S that have a sample. -/
def candidates (x : List Cplx) (S : Nat) : List Candidate :=
  ((List.range S).filter fun p => decide (0 < phaseCount x.length S p)).map fun p =>
    { phase := p, energy := phaseEnergy x S p, count := phaseCount x.length S p }

/-- The first candidate whose average power no candidate exceeds, compared by cross-multiplication; phase 0 when there
is none (41_demodulator.md R143). -/
def leastBest (cs : List Candidate) : Nat :=
  match cs.find? fun c => cs.all fun d => decide (d.energy * (c.count : Int) ≤ c.energy * (d.count : Int)) with
  | some c => c.phase
  | none => 0

/-- `P`, the chosen timing phase (41_demodulator.md R143). -/
def bestPhase (x : List Cplx) (S : Nat) : Nat := leastBest (candidates x S)

/-- `s[n]·conj(s[n-1])` (41_demodulator.md R145). -/
def diffProduct (cur prev : Cplx) : Cplx where
  re := cur.re * prev.re + cur.im * prev.im
  im := cur.im * prev.re - cur.re * prev.im

/-- The products of consecutive symbols (41_demodulator.md R145). -/
def diffProducts : List Cplx → List Cplx
  | a :: b :: r => diffProduct b a :: diffProducts (b :: r)
  | _ => []

/-- The quantizer `q` (41_demodulator.md R146). -/
def quantize (c : Cplx) : BitVec 2 :=
  if c.re = 0 ∧ c.im = 0 then 0#2
  else if 0 ≤ c.im ∧ 0 < c.re then 0#2
  else if 0 ≤ c.im ∧ c.re ≤ 0 then 1#2
  else if c.im < 0 ∧ 0 ≤ c.re then 2#2
  else 3#2

/-- The symbols of a sequence of samples taken at one phase (41_demodulator.md R145, R146). -/
def symbolsOf (ss : List Cplx) : List (BitVec 2) := (diffProducts ss).map quantize

/-- The sequence `x` that a DEMOD in this state works on. -/
def State.demodSeq (s : State) : List Cplx := demodInput s.demod.feEn (s.mem.samples s.demod.nsamp.toNat)

/-- The phase `P` of a DEMOD in this state. -/
def State.demodPhase (s : State) : Nat := bestPhase s.demodSeq s.demod.sps.toNat

/-- The symbols of a DEMOD in this state. -/
def State.demodSymbols (s : State) : List (BitVec 2) :=
  symbolsOf (phaseSamples s.demodSeq s.demod.sps.toNat s.demodPhase)

/-- The outputs of DEMOD (41_demodulator.md R147). -/
def State.demodOutputs (s : State) : State :=
  { s with
    mem := s.mem.setSyms 0 s.demodSymbols
    symCount := BitVec.ofNat 13 s.demodSymbols.length
    demodOut := { phase := BitVec.ofNat 8 s.demodPhase, nfe := BitVec.ofNat 13 s.demodSeq.length } }

/-- The check that fails, if one does: its info value (41_demodulator.md R141). -/
def State.demodCheck (s : State) : Option (Code × Word) :=
  if s.demod.sps.toNat = 0 then some (.config, 0x020#32)
  else if Config.sampleCap < s.demod.nsamp.toNat then some (.config, 0x024#32)
  else none

/-- DEMOD (41_demodulator.md R140 to R147). -/
def execDemod (s : State) : Host.Outcome State Fault Refusal :=
  match s.demodCheck with
  | some (code, info) => .next (s.complete code info)
  | none => .next (s.demodOutputs.complete .ok 0#32)

end Sys2Proof.Machine
end

