-- ==== Sys2Proof/Machine/Flags.lean ====
section
/-! DEFINITION. The status flags (10_state.md R58) as the bus sees them, the interrupt level (60_exceptions.md R244), and
the register map: offsets, reads and plain writes of every register of 10_state.md. -/

namespace Sys2Proof.Machine

/-- The interrupt output, a level (60_exceptions.md R244). -/
def State.irqLine (s : State) : Bool := (s.irq.done && s.irq.doneEn) || (s.irq.err && s.irq.errEn)

/-- The registers of 10_state.md R22 to R55. -/
inductive Reg where
  | id | cmd | status | irqEn | irqStatus | ctrl | errInfo
  | demodCfg | demodNsamp | demodPhase | demodNfe | symCount
  | syncTs1 | syncTs2 | syncThr01 | syncThr2f | syncAdapt | syncStart | syncResult
  | burstStart | burstCfg | burstResult | burstTs
  | crcNbits | crcCfg | crcValue | crcResult
  | teaCfg | teaKeylen | teaKey0 | teaKey1 | teaKey2 | teaKey3 | teaIv0 | teaIv1 | teaLen | teaState | teaNblk
deriving DecidableEq, Repr

/-- The byte offset of a register (10_state.md R22 to R55). -/
def Reg.offset : Reg → Nat
  | .id => 0x000
  | .cmd => 0x004
  | .status => 0x008
  | .irqEn => 0x00C
  | .irqStatus => 0x010
  | .ctrl => 0x014
  | .errInfo => 0x018
  | .demodCfg => 0x020
  | .demodNsamp => 0x024
  | .demodPhase => 0x028
  | .demodNfe => 0x02C
  | .symCount => 0x030
  | .syncTs1 => 0x040
  | .syncTs2 => 0x044
  | .syncThr01 => 0x048
  | .syncThr2f => 0x04C
  | .syncAdapt => 0x050
  | .syncStart => 0x054
  | .syncResult => 0x058
  | .burstStart => 0x060
  | .burstCfg => 0x064
  | .burstResult => 0x068
  | .burstTs => 0x06C
  | .crcNbits => 0x070
  | .crcCfg => 0x074
  | .crcValue => 0x078
  | .crcResult => 0x07C
  | .teaCfg => 0x080
  | .teaKeylen => 0x084
  | .teaKey0 => 0x088
  | .teaKey1 => 0x08C
  | .teaKey2 => 0x090
  | .teaKey3 => 0x094
  | .teaIv0 => 0x098
  | .teaIv1 => 0x09C
  | .teaLen => 0x0A0
  | .teaState => 0x0A4
  | .teaNblk => 0x0A8

/-- Every register. -/
def Reg.all : List Reg :=
  [.id, .cmd, .status, .irqEn, .irqStatus, .ctrl, .errInfo,
   .demodCfg, .demodNsamp, .demodPhase, .demodNfe, .symCount,
   .syncTs1, .syncTs2, .syncThr01, .syncThr2f, .syncAdapt, .syncStart, .syncResult,
   .burstStart, .burstCfg, .burstResult, .burstTs,
   .crcNbits, .crcCfg, .crcValue, .crcResult,
   .teaCfg, .teaKeylen, .teaKey0, .teaKey1, .teaKey2, .teaKey3, .teaIv0, .teaIv1, .teaLen, .teaState, .teaNblk]

/-- The register at a byte offset; none at a reserved offset of REGS (20_memory.md R71, R72). -/
def regAt? (off : Nat) : Option Reg := Reg.all.find? fun r => r.offset == off

/-- A flag as a one-bit field. -/
def flagBit (b : Bool) : BitVec 1 := BitVec.ofBool b

/-- What a register reads as while no command runs that has it as an output: its fields at their places, highest
first, with 0 for the reserved bits (10_state.md R22 to R55, 20_memory.md R73). -/
def State.readReg (s : State) : Reg → Word
  | .id => 0x54454442#32
  | .cmd => s.cmd
  | .status => 0#7 ++ flagBit s.status.wbusy ++ s.status.op ++ s.status.code ++ 0#6 ++ flagBit s.status.done ++ flagBit s.busy
  | .irqEn => 0#30 ++ flagBit s.irq.errEn ++ flagBit s.irq.doneEn
  | .irqStatus => 0#30 ++ flagBit s.irq.err ++ flagBit s.irq.done
  | .ctrl => 0#32
  | .errInfo => s.errInfo
  | .demodCfg => 0#23 ++ flagBit s.demod.feEn ++ s.demod.sps
  | .demodNsamp => 0#19 ++ s.demod.nsamp
  | .demodPhase => 0#24 ++ s.demodOut.phase
  | .demodNfe => 0#19 ++ s.demodOut.nfe
  | .symCount => 0#19 ++ s.symCount
  | .syncTs1 => 0#10 ++ s.sync.ts1
  | .syncTs2 => 0#10 ++ s.sync.ts2
  | .syncThr01 => s.sync.thr1 ++ s.sync.thr0
  | .syncThr2f => s.sync.floor ++ s.sync.thr2
  | .syncAdapt => s.sync.skip ++ s.sync.margin
  | .syncStart => 0#18 ++ s.sync.start
  | .syncResult =>
    0#13 ++ s.syncResult.pass ++ 0#3 ++ s.syncResult.best ++ flagBit s.syncResult.ovf ++ s.syncResult.count
  | .burstStart => 0#18 ++ s.burst.start
  | .burstCfg => 0#16 ++ s.burst.syncThr
  | .burstResult =>
    0#11 ++ s.burstResult.midMatch ++ 0#3 ++ s.burstResult.tsLen ++ 0#4 ++ flagBit s.burstResult.crcOk ++ s.burstResult.btype
  | .burstTs => 0#10 ++ s.burstTs
  | .crcNbits => 0#21 ++ s.crc.nbits
  | .crcCfg => 0#27 ++ s.crc.maxHd
  | .crcValue => s.crcValue.rev ++ s.crcValue.nat
  | .crcResult =>
    s.crcResult.rx ++ 0#4 ++ s.crcResult.hdRev ++ s.crcResult.hdNat ++ flagBit s.crcResult.order ++ flagBit s.crcResult.ok
  | .teaCfg => 0#23 ++ flagBit s.tea.cbc ++ 0#5 ++ s.tea.alg
  | .teaKeylen => 0#24 ++ s.tea.keyLen
  | .teaKey0 => s.tea.key0
  | .teaKey1 => s.tea.key1
  | .teaKey2 => s.tea.key2
  | .teaKey3 => s.tea.key3
  | .teaIv0 => s.tea.iv0
  | .teaIv1 => s.tea.iv1
  | .teaLen => 0#22 ++ s.tea.len
  | .teaState => 0#16 ++ s.lk.len ++ 0#4 ++ s.lk.alg ++ flagBit s.lk.valid
  | .teaNblk => 0#25 ++ s.teaNblk

/-- A host write to a register, but for the two whose write starts an action, CMD and CTRL (20_memory.md R76): RW fields
store the bits at their places, W1C flags clear where the bit is 1, RO fields ignore the write (20_memory.md R73). -/
def State.storeReg (s : State) (v : Word) : Reg → State
  | .status => { s with status := { s.status with wbusy := s.status.wbusy && !v.getLsbD 24 } }
  | .irqEn => { s with irq := { s.irq with doneEn := v.getLsbD 0, errEn := v.getLsbD 1 } }
  | .irqStatus => s.ackIrq v
  | .demodCfg => { s with demod := { s.demod with sps := v.extractLsb' 0 8, feEn := v.getLsbD 8 } }
  | .demodNsamp => { s with demod := { s.demod with nsamp := v.extractLsb' 0 13 } }
  | .symCount => { s with symCount := v.extractLsb' 0 13 }
  | .syncTs1 => { s with sync := { s.sync with ts1 := v.extractLsb' 0 22 } }
  | .syncTs2 => { s with sync := { s.sync with ts2 := v.extractLsb' 0 22 } }
  | .syncThr01 => { s with sync := { s.sync with thr0 := v.extractLsb' 0 16, thr1 := v.extractLsb' 16 16 } }
  | .syncThr2f => { s with sync := { s.sync with thr2 := v.extractLsb' 0 16, floor := v.extractLsb' 16 16 } }
  | .syncAdapt => { s with sync := { s.sync with margin := v.extractLsb' 0 16, skip := v.extractLsb' 16 16 } }
  | .syncStart => { s with sync := { s.sync with start := v.extractLsb' 0 14 } }
  | .burstStart => { s with burst := { s.burst with start := v.extractLsb' 0 14 } }
  | .burstCfg => { s with burst := { s.burst with syncThr := v.extractLsb' 0 16 } }
  | .crcNbits => { s with crc := { s.crc with nbits := v.extractLsb' 0 11 } }
  | .crcCfg => { s with crc := { s.crc with maxHd := v.extractLsb' 0 5 } }
  | .teaCfg => { s with tea := { s.tea with alg := v.extractLsb' 0 3, cbc := v.getLsbD 8 } }
  | .teaKeylen => { s with tea := { s.tea with keyLen := v.extractLsb' 0 8 } }
  | .teaKey0 => { s with tea := { s.tea with key0 := v } }
  | .teaKey1 => { s with tea := { s.tea with key1 := v } }
  | .teaKey2 => { s with tea := { s.tea with key2 := v } }
  | .teaKey3 => { s with tea := { s.tea with key3 := v } }
  | .teaIv0 => { s with tea := { s.tea with iv0 := v } }
  | .teaIv1 => { s with tea := { s.tea with iv1 := v } }
  | .teaLen => { s with tea := { s.tea with len := v.extractLsb' 0 10 } }
  | .id => s
  | .cmd => s
  | .ctrl => s
  | .errInfo => s
  | .demodPhase => s
  | .demodNfe => s
  | .syncResult => s
  | .burstResult => s
  | .burstTs => s
  | .crcValue => s
  | .crcResult => s
  | .teaState => s
  | .teaNblk => s

end Sys2Proof.Machine
end

