-- ==== Sys2Proof/Machine/Tea.lean ====
section
/-! DEFINITION. The TEA1 to TEA4 block decryptor (44_tea.md): TEA_KEY, TEA_DEC and TEA_BLK. -/

namespace Sys2Proof.Machine

/-! ## Keys -/

/-- The key length an algorithm code requires (44_tea.md R210, R212). -/
def requiredKeyLength (alg : BitVec 3) : Nat := if alg.toNat = 0 then 10 else 16

/-- The i-th byte that TEA_KEY latches: the key byte below the length, 0 above (44_tea.md R211). -/
def State.latchByte (s : State) (i : Nat) : Byte := if i < s.tea.keyLen.toNat then s.tea.keyByte i else 0#8

/-- The latched key of a TEA_KEY that succeeds (44_tea.md R211). -/
def State.newKey (s : State) : LatchedKey where
  valid := true
  alg := s.tea.alg
  len := s.tea.keyLen
  bytes :=
    #v[s.latchByte 0, s.latchByte 1, s.latchByte 2, s.latchByte 3,
       s.latchByte 4, s.latchByte 5, s.latchByte 6, s.latchByte 7,
       s.latchByte 8, s.latchByte 9, s.latchByte 10, s.latchByte 11,
       s.latchByte 12, s.latchByte 13, s.latchByte 14, s.latchByte 15]

/-- The check of TEA_KEY that fails, if one does, the algorithm first (44_tea.md R210). -/
def State.teaKeyCheck (s : State) : Option (Code × Word) :=
  if 4 ≤ s.tea.alg.toNat then some (.unknownAlg, s.tea.alg.setWidth 32)
  else if s.tea.keyLen.toNat ≠ requiredKeyLength s.tea.alg then some (.keyLength, s.tea.keyLen.setWidth 32)
  else none

/-- TEA_KEY (44_tea.md R210, R211). -/
def execTeaKey (s : State) : Host.Outcome State Fault Refusal :=
  match s.teaKeyCheck with
  | some (code, info) => .next (s.complete code info)
  | none => .next ({ s with lk := s.newKey }.complete .ok 0#32)

/-- The four key words of a transform. -/
structure KeyWords where
  k0 : Word
  k1 : Word
  k2 : Word
  k3 : Word
deriving DecidableEq, Repr

/-- A 16-bit key word of TEA1, zero-extended (44_tea.md R214). -/
def tea1Word (k : LatchedKey) (j : Nat) : Word := 0#16 ++ k.byte (2 * j) ++ k.byte (2 * j + 1)

/-- The key words of TEA1 (44_tea.md R214); bytes 8 and 9 do not enter. -/
def tea1Words (k : LatchedKey) : KeyWords where
  k0 := tea1Word k 0
  k1 := tea1Word k 1
  k2 := tea1Word k 2
  k3 := tea1Word k 3

/-- A 32-bit key word of TEA2, TEA3 and TEA4 (44_tea.md R215). -/
def tea2Word (k : LatchedKey) (j : Nat) : Word :=
  beWord (k.byte (4 * j)) (k.byte (4 * j + 1)) (k.byte (4 * j + 2)) (k.byte (4 * j + 3))

/-- The key words of TEA2, TEA3 and TEA4 (44_tea.md R215). -/
def tea2Words (k : LatchedKey) : KeyWords where
  k0 := tea2Word k 0
  k1 := tea2Word k 1
  k2 := tea2Word k 2
  k3 := tea2Word k 3

/-! ## The block transforms -/

/-- The two words of a block (44_tea.md R213). -/
structure Halves where
  v0 : Word
  v1 : Word
deriving DecidableEq, Repr

/-- A block of 8 bytes as two big-endian words (44_tea.md R213). -/
def unpackBlock (b : List Byte) : Halves where
  v0 := beWord (b.getD 0 0#8) (b.getD 1 0#8) (b.getD 2 0#8) (b.getD 3 0#8)
  v1 := beWord (b.getD 4 0#8) (b.getD 5 0#8) (b.getD 6 0#8) (b.getD 7 0#8)

/-- The bytes of a block (44_tea.md R213). -/
def packBlock (h : Halves) : List Byte := beBytes h.v0 ++ beBytes h.v1

/-- The golden-ratio delta (44_tea.md R216). -/
def teaDelta : Word := 0x9E3779B9#32

/-- The initial sum, 32 times delta mod 2^32 (44_tea.md R216). -/
def teaInitialSum : Word := 0xC6EF3720#32

/-- The mixing term of a half-round (44_tea.md R216). -/
def teaMix (v sum ka kb : Word) : Word := ((v <<< 4) + ka) ^^^ (v + sum) ^^^ ((v >>> 5) + kb)

/-- One decryption round: v1, then v0 with the new v1 (44_tea.md R216). -/
def teaRound (k : KeyWords) (sum : Word) (h : Halves) : Halves :=
  let v1 := h.v1 - teaMix h.v0 sum k.k2 k.k3
  let v0 := h.v0 - teaMix v1 sum k.k0 k.k1
  { v0 := v0, v1 := v1 }

/-- Rounds with a sum that falls by delta after each (44_tea.md R216). -/
def teaRounds (k : KeyWords) : Nat → Word → Halves → Halves
  | 0, _, h => h
  | n + 1, sum, h => teaRounds k n (sum - teaDelta) (teaRound k sum h)

/-- The default block transform, 32 rounds, on the two words of a block (44_tea.md R216); `blockDec` unpacks and packs. -/
def teaDefaultDec (h : Halves) (k : KeyWords) : Halves := teaRounds k 32 teaInitialSum h

/-- The two block transforms, arguments of the machine (00_scope.md R6, 44_tea.md R216, R217). Each is a function of the two
words of a block (R213) and the key words; since packing is one to one, that is every transform of 8-byte blocks.
DESIGN CHOICE (log 20), unsafe: a transform sees the latched key only through the key words of R214 and R215, so no TEA1_DEC
depends on key bytes 8 and 9. The spec leaves open whether one other than the default may. -/
structure TeaTransforms where
  /-- TEA1_DEC -/
  dec1 : Halves → KeyWords → Halves
  /-- TEA2_DEC -/
  dec2 : Halves → KeyWords → Halves

/-- TEA1_DEC at the spec's default (44_tea.md R216). DESIGN CHOICE (log 2), unsafe: the argument `exec` takes. -/
def tea1Dec (h : Halves) (k : KeyWords) : Halves := teaDefaultDec h k

/-- TEA2_DEC at the spec's default (44_tea.md R217). DESIGN CHOICE (log 2), unsafe: the argument `exec` takes. -/
def tea2Dec (h : Halves) (k : KeyWords) : Halves := teaDefaultDec h k

/-- The spec's defaults of both transforms (44_tea.md R216, R217). -/
def TeaTransforms.defaults : TeaTransforms where
  dec1 := tea1Dec
  dec2 := tea2Dec

/-- `D(block)` for given transforms: the one the algorithm selects, on the key words of the latched key (44_tea.md R212,
R214, R215, R218), the block unpacked and packed (R213). A latched code is below 4 (R210); the function is total, and
answers for the codes 4 to 7, which no run latches, as for 1 to 3 (log 14). The transforms get the key words, not the key
bytes (log 20). -/
def blockDec (x : TeaTransforms) (k : LatchedKey) (block : List Byte) : List Byte :=
  packBlock
    (if k.alg.toNat = 0 then x.dec1 (unpackBlock block) (tea1Words k) else x.dec2 (unpackBlock block) (tea2Words k))

/-- `D(block)` for the default transforms (44_tea.md R218). -/
def teaBlockDec (k : LatchedKey) (block : List Byte) : List Byte := blockDec .defaults k block

/-! ## Chaining -/

/-- CBC: each plaintext block is the decrypted block XOR the ciphertext block before it (44_tea.md R219). -/
def cbcDec (D : List Byte → List Byte) : List Byte → List (List Byte) → List (List Byte)
  | _, [] => []
  | prev, c :: cs => xorBytes (D c) prev :: cbcDec D c cs

/-- ECB or CBC over the ciphertext blocks (44_tea.md R219). -/
def chainDec (cbc : Bool) (D : List Byte → List Byte) (iv : List Byte) (cs : List (List Byte)) : List (List Byte) :=
  if cbc then cbcDec D iv cs else cs.map D

/-- The number of blocks of a TEA_DEC (44_tea.md R219). -/
def State.teaBlocks (s : State) : Nat := s.tea.len.toNat / 8

/-- The plaintext blocks of a TEA_DEC in this state (44_tea.md R219). -/
def State.teaPlain (s : State) (x : TeaTransforms) : List (List Byte) :=
  chainDec s.tea.cbc (blockDec x s.lk) s.tea.ivBytes ((List.range s.teaBlocks).map fun i => s.mem.cinBlock i)

/-- The outputs of TEA_DEC (44_tea.md R219). -/
def State.teaDecOutputs (s : State) (x : TeaTransforms) : State :=
  { s with mem := s.mem.setBytes coutBase (s.teaPlain x).flatten, teaNblk := BitVec.ofNat 7 s.teaBlocks }

/-- The check of TEA_DEC that fails, if one does (44_tea.md R220). -/
def State.teaDecCheck (s : State) : Option (Code × Word) :=
  if s.lk.valid = false then some (.noKey, 0#32)
  else if Config.cbufCap < s.tea.len.toNat then some (.config, 0x0A0#32)
  else if s.tea.len.toNat % 8 ≠ 0 then some (.dataLength, s.tea.len.setWidth 32)
  else none

/-- TEA_DEC with given transforms (44_tea.md R219, R220, 00_scope.md R6). -/
def teaDecWith (x : TeaTransforms) (s : State) : Host.Outcome State Fault Refusal :=
  match s.teaDecCheck with
  | some (code, info) => .next (s.complete code info)
  | none => .next ((s.teaDecOutputs x).complete .ok 0#32)

/-- TEA_DEC (44_tea.md R219, R220) with the default transforms. -/
def execTeaDec (s : State) : Host.Outcome State Fault Refusal := teaDecWith .defaults s

/-- The outputs of TEA_BLK (44_tea.md R222). -/
def State.teaBlkOutputs (s : State) (x : TeaTransforms) : State :=
  { s with mem := s.mem.setBytes coutBase (blockDec x s.lk (s.mem.cinBlock 0)), teaNblk := 1#7 }

/-- The check of TEA_BLK that fails, if one does (44_tea.md R222). -/
def State.teaBlkCheck (s : State) : Option (Code × Word) :=
  if s.lk.valid = false then some (.noKey, 0#32)
  else if s.tea.len.toNat ≠ 8 then some (.blockSize, s.tea.len.setWidth 32)
  else none

/-- TEA_BLK with given transforms (44_tea.md R222, 00_scope.md R6). -/
def teaBlkWith (x : TeaTransforms) (s : State) : Host.Outcome State Fault Refusal :=
  match s.teaBlkCheck with
  | some (code, info) => .next (s.complete code info)
  | none => .next ((s.teaBlkOutputs x).complete .ok 0#32)

/-- TEA_BLK (44_tea.md R222) with the default transforms. -/
def execTeaBlk (s : State) : Host.Outcome State Fault Refusal := teaBlkWith .defaults s

end Sys2Proof.Machine
end

