-- ==== Sys2Proof/Machine/Bus.lean ====
section
/-! DEFINITION. The host's side of the block: bus accesses (20_memory.md R70 to R76), accesses while a command runs
(40_command.md R125, R126), the soft reset (R129), the hardware reset (70_reset_and_hazards.md R260, R261), and one turn
of the outside world. -/

namespace Sys2Proof.Machine

/-! ## The outputs of the running command -/

/-- The byte offsets of `n` consecutive words of a buffer. -/
def wordsAt (base n : Nat) : List Nat := (List.range n).map fun k => base + 4 * k

/-- How many 16-symbol words hold the first `n` symbols (20_memory.md R79). -/
def symWords (n : Nat) : Nat := (n + 15) / 16

/-- The buffer words that a command's rule lists as outputs: those of DEMOD (41_demodulator.md R140), SYNC (42_frame_sync.md
R160), BURST (43_burst_crc.md R182), TEA_DEC (44_tea.md R219) and TEA_BLK (R222), a partly written word counting whole.
Where a check fails, so that the rule's M or K is not computed, every word of the buffer counts (log 7, safe). -/
def State.outputWords (s : State) : Instr → List Nat
  | .nop => []
  | .demod =>
    wordsAt symbufBase (if s.demodCheck = none then symWords s.demodSymbols.length else Config.symCap / 16)
  | .sync => wordsAt syncOutBase (if s.syncCheck = none then s.syncEntries.length else Config.syncCap)
  | .burst => wordsAt bitbufBase 7
  | .crcGen => []
  | .crcCheck => []
  | .teaKey => []
  | .teaDec => wordsAt coutBase ((min s.tea.len.toNat Config.cbufCap + 3) / 4)
  | .teaBlk => wordsAt coutBase 2

/-- The bits of a register that belong to output fields of a command (the rules' "Outputs written on OK" lines; the
field places of 10_state.md). -/
def outputMask : Instr → Reg → Word
  | .demod, .symCount => 0x00001FFF#32
  | .demod, .demodPhase => 0x000000FF#32
  | .demod, .demodNfe => 0x00001FFF#32
  | .sync, .syncResult => 0x00071FFF#32
  | .burst, .burstResult => 0x001F1F0F#32
  | .burst, .burstTs => 0x003FFFFF#32
  | .burst, .crcValue => 0xFFFFFFFF#32
  | .burst, .crcResult => 0xFFFF0FFF#32
  | .crcGen, .crcValue => 0xFFFFFFFF#32
  | .crcCheck, .crcValue => 0xFFFFFFFF#32
  | .crcCheck, .crcResult => 0xFFFF0FFF#32
  | .teaKey, .teaState => 0x0000FF0F#32
  | .teaDec, .teaNblk => 0x0000007F#32
  | .teaBlk, .teaNblk => 0x0000007F#32
  | _, _ => 0x00000000#32

/-- The running op (10_state.md R57): the decoding of CMD.WORD while ENG is Running; none for the illegal command and
when ENG is Idle. -/
def State.runningOp (s : State) : Option Instr :=
  if s.busy then
    match decode s.cmd with
    | .ok i => some i
    | .error _ => none
  else none

/-- The bits that a read at a byte offset finds unspecified, because the running command has them as outputs
(40_command.md R126). -/
def State.openMask (s : State) (off : Nat) : Word :=
  match s.runningOp with
  | none => 0#32
  | some i =>
    match regAt? off with
    | some r => outputMask i r
    | none => if off ∈ s.outputWords i then 0xFFFFFFFF#32 else 0#32

/-! ## Resets -/

/-- The buffers with free values in every listed word, all of one draw (40_command.md R129). -/
def Memory.scramble (m : Memory) (draw : Nat) : List Nat → Memory
  | [] => m
  | a :: as => Memory.scramble (m.setWord a (Config.abandonedWord draw a)) draw as

/-- The buffers after the running command, if one runs, is abandoned (40_command.md R129). -/
def State.abandonedMem (s : State) : Memory :=
  match s.runningOp with
  | none => s.mem
  | some i => s.mem.scramble s.draws (s.outputWords i)

/-- The soft reset (40_command.md R129): every register field, LK and ENG at their reset values, the buffers kept but for
the output words of an abandoned command. The pin, the coming inputs and the response are no registers. -/
def State.softReset (s : State) : State :=
  { State.reset with
    mem := s.abandonedMem
    rstN := s.rstN
    inputs := s.inputs
    response := s.response
    draws := s.draws + 1 }

/-- `rst_n` falls (70_reset_and_hazards.md R260, R261): registers, LK and ENG at their reset values, a running command
abandoned, every buffer word unspecified by a new free draw. -/
def State.hardReset (s : State) : State :=
  { State.reset with
    mem := { cells := [], draw := s.draws }
    rstN := false
    inputs := s.inputs
    response := none
    draws := s.draws + 1 }

/-- `rst_n` rises (70_reset_and_hazards.md R260). -/
def State.releaseReset (s : State) : State := { s with rstN := true }

/-! ## Accesses -/

/-- Whether the bus performs an access of some width at some byte offset: 4 bytes, aligned, inside the window
(20_memory.md R70), and `rst_n` not asserted (70_reset_and_hazards.md R260). -/
def State.performs (s : State) (bytes off : Nat) : Bool :=
  bytes == 4 && off % 4 == 0 && decide (off < 0x8000) && s.rstN

/-- The current value at an aligned byte offset: a register, a buffer word, or 0 at a reserved offset
(20_memory.md R71, R72). -/
def State.readWord (s : State) (off : Nat) : Word :=
  match regionOf off with
  | .regs =>
    match regAt? off with
    | some r => s.readReg r
    | none => 0#32
  | .reserved => 0#32
  | .syncOut => s.mem.word off
  | .bitbuf => s.mem.word off
  | .cin => s.mem.word off
  | .cout => s.mem.word off
  | .symbuf => s.mem.word off
  | .samples => s.mem.word off

/-- The state with the bus response to an access. -/
def State.answer (s : State) (r : BusResponse) : State := { s with response := some r }

/-- The state after one free draw. -/
def State.drawn (s : State) : State := { s with draws := s.draws + 1 }

/-- A performed read. Where the running command has an output among the bits read, those bits are a free value, drawn
anew at each such read (40_command.md R126, log 6); every other bit is the current value. -/
def State.hostRead (s : State) (off : Nat) : State :=
  let mask := s.openMask off
  if mask = 0#32 then s.answer (.data (s.readWord off))
  else s.drawn.answer (.data ((s.readWord off &&& ~~~mask) ||| (Config.busyRead s.draws &&& mask)))

/-- A host write to CMD while ENG is Idle: the command starts, with a latency drawn freely (40_command.md R120, R121,
R122, log 4). -/
def State.startCommand (s : State) (w : Word) : State :=
  (s.start w (Config.latency s.draws)).drawn

/-- The registers that stay writable while a command runs (40_command.md R125). -/
def writableWhileBusy (off : Nat) : Bool := off == 0x008 || off == 0x00C || off == 0x010 || off == 0x014

/-- A word written to a buffer (20_memory.md R71). -/
def State.storeBuffer (s : State) (off : Nat) (v : Word) : State := { s with mem := s.mem.setWord off v }

/-- A write that takes effect, at an aligned byte offset: a register, a buffer word, or nothing where writes are ignored
(20_memory.md R71 to R73, R76). -/
def State.storeWord (s : State) (off : Nat) (v : Word) : State :=
  match regionOf off with
  | .regs =>
    match regAt? off with
    | some .cmd => s.startCommand v
    | some .ctrl => if v.getLsbD 0 then s.softReset else s
    | some r => s.storeReg v r
    | none => s
  | .reserved => s
  | .syncOut => s
  | .cout => s
  | .bitbuf => s.storeBuffer off v
  | .cin => s.storeBuffer off v
  | .symbuf => s.storeBuffer off v
  | .samples => s.storeBuffer off v

/-- A write that is dropped (40_command.md R125). -/
def State.dropWrite (s : State) : State := { s with status := { s.status with wbusy := true } }

/-- A performed write: dropped, with WBUSY set, when a command runs and the offset is not one of the four that stay
writable (40_command.md R125). -/
def State.hostWrite (s : State) (off : Nat) (v : Word) : State :=
  if s.busy && !writableWhileBusy off then s.dropWrite.answer .accepted
  else (s.storeWord off v).answer .accepted

/-- One host access: performed, or answered with a bus error and no other effect (20_memory.md R70,
60_exceptions.md R242). -/
def State.hostAccess (s : State) : Access → State
  | .read bytes off => if s.performs bytes off then s.hostRead off else s.answer .busError
  | .write bytes off v => if s.performs bytes off then s.hostWrite off v else s.answer .busError

/-! ## One turn of the outside world -/

/-- The engine's remaining delay falls by one host turn (log 4). -/
def Engine.tick : Engine → Engine
  | .idle => .idle
  | .running 0 => .running 0
  | .running (d + 1) => .running d

/-- The effect of one input. -/
def State.applyInput (s : State) : Input → State
  | .idle => s
  | .access a => s.hostAccess a
  | .assertReset => s.hardReset
  | .releaseReset => s.releaseReset

/-- The state after one more host turn, with these inputs still to come. -/
def State.waited (s : State) (rest : List Input) : State := { s with eng := s.eng.tick, inputs := rest }

/-- One turn of the outside world: the next input, if one is due, takes effect; with none, the turn is idle (log 9). -/
def State.hostTurn (s : State) : State :=
  match s.inputs with
  | [] => s.waited []
  | x :: rest => (s.waited rest).applyInput x

/-! ## Whose turn it is -/

/-- What a step does next (log 8). -/
inductive Turn where
  /-- the outside world moves -/
  | host
  /-- the engine completes a command -/
  | command (i : Instr)
  /-- the engine completes the illegal command -/
  | illegal
deriving DecidableEq, Repr

/-- The command that the engine fetches from CMD.WORD at its completion step (40_command.md R123, log 10). -/
def State.fetch (s : State) : Turn :=
  match decode s.cmd with
  | .ok i => .command i
  | .error _ => .illegal

/-- Whose turn it is: the engine's when a command runs and its delay is over, else the outside world's. -/
def State.turn (s : State) : Turn :=
  match s.rstN, s.eng with
  | true, .running 0 => s.fetch
  | _, _ => .host

/-- The completion of the illegal command (40_command.md R128). -/
def runIllegal (s : State) : Host.Outcome State Fault Refusal := .next s.completeIllegal

/-- The turn of the outside world as a step. -/
def runHost (s : State) : Host.Outcome State Fault Refusal := .next s.hostTurn

/-- The state in which the engine is about to complete the command of a table row's bits: as after the host's write of
that word to CMD (40_command.md R121) with no delay left, `rst_n` released (log 9). -/
def State.placeCommand (s : State) (nbits w : Nat) : State :=
  match tableWord nbits w with
  | some v => { s.start v 0 with rstN := true }
  | none => s

end Sys2Proof.Machine
end

