-- ==== Sys2Proof/Machine/Command.lean ====
section
/-! DEFINITION. The command of no family: NOP (40_command.md R127). The illegal command is `State.completeIllegal`. -/

namespace Sys2Proof.Machine

/-- NOP (40_command.md R127): `complete(OK, 0)`. -/
def execNop (s : State) : Host.Outcome State Fault Refusal := .next (s.complete .ok 0#32)

end Sys2Proof.Machine
end

