-- ==== Sys2Proof/Machine/Dispatch.lean ====
section
/-! DEFINITION. The meaning of each command: its completion step (40_command.md R122, R123), from the registers and
buffers as they stand. -/

namespace Sys2Proof.Machine

def exec (i : Instr) (s : State) : Host.Outcome State Fault Refusal :=
  match i with
  | .nop => Sys2Proof.Machine.execNop s
  | .demod => Sys2Proof.Machine.execDemod s
  | .sync => Sys2Proof.Machine.execSync s
  | .burst => Sys2Proof.Machine.execBurst s
  | .crcGen => Sys2Proof.Machine.execCrcGen s
  | .crcCheck => Sys2Proof.Machine.execCrcCheck s
  | .teaKey => Sys2Proof.Machine.execTeaKey s
  | .teaDec => Sys2Proof.Machine.execTeaDec s
  | .teaBlk => Sys2Proof.Machine.execTeaBlk s

end Sys2Proof.Machine
end

