-- ==== Sys2Proof/Machine/Step.lean ====
section
/-! DEFINITION. One step of the machine: the turn of one of the two agents (00_scope.md R4, log 8). -/

namespace Sys2Proof.Machine

/-- One step. The engine completes the command in CMD.WORD when its delay is over, else the outside world has its turn. -/
def step (s : State) : Host.Outcome State Fault Refusal :=
  match s.turn with
  | .host => runHost s
  | .command i => exec i s
  | .illegal => runIllegal s

/-- The state with a table row's instruction where the engine fetches its next one, so that the very next step runs
it (log 9). -/
def State.withFetchWord (s : State) (nbits w : Nat) : State := s.placeCommand nbits w

end Sys2Proof.Machine
end

