-- ==== Sys2Proof/Machine/Parametric.lean ====
section
/-! DEFINITION. The machine with TEA1_DEC and TEA2_DEC as its arguments (00_scope.md R6). `exec` and `step` are this machine at
the spec's defaults, as the law `step_eq_stepWith` says. -/

namespace Sys2Proof.Machine

/-- The meaning of each command, for given transforms. -/
def execWith (x : TeaTransforms) (i : Instr) (s : State) : Host.Outcome State Fault Refusal :=
  match i with
  | .nop => execNop s
  | .demod => execDemod s
  | .sync => execSync s
  | .burst => execBurst s
  | .crcGen => execCrcGen s
  | .crcCheck => execCrcCheck s
  | .teaKey => execTeaKey s
  | .teaDec => teaDecWith x s
  | .teaBlk => teaBlkWith x s

/-- One step, for given transforms. -/
def stepWith (x : TeaTransforms) (s : State) : Host.Outcome State Fault Refusal :=
  match s.turn with
  | .host => runHost s
  | .command i => execWith x i s
  | .illegal => runIllegal s

/-- The machine behind the host's interface, for given transforms. -/
def coreWith (x : TeaTransforms) : Host.Core where
  State := State
  Fault := Fault
  Refusal := Refusal
  step := stepWith x
  reset := State.reset

end Sys2Proof.Machine
end

