-- ==== Sys2Proof/Safety.lean ====
section
/-! DEFINITION. What counts as a safe run, in the terms the claims use: a step that does not stop, and the invariant that
every step keeps. -/

namespace Sys2Proof.Machine

/-- The machine goes on from this state: its step answers a next state (the block never halts: 60_exceptions.md, its
opening). -/
def State.continues (s : State) : Prop := ∃ t : State, step s = .next t

/-- The buffers are in canonical form, hold only bytes of the buffers of 20_memory.md R71, and belong to a draw that has
been made (log 5). -/
structure State.MemInv (s : State) : Prop where
  wf : s.mem.wf = true
  inBuffers : ∀ c ∈ s.mem.cells, isBuffer c.1 = true
  drawn : s.mem.draw < s.draws

/-- The latched key is cleared, or one that TEA_KEY can latch (10_state.md R56, 44_tea.md R210, R211). -/
structure State.KeyInv (s : State) : Prop where
  cleared : s.lk.valid = false → s.lk = LatchedKey.cleared
  known : s.lk.valid = true → s.lk.alg.toNat < 4
  length : s.lk.valid = true → s.lk.len.toNat = requiredKeyLength s.lk.alg
  padded : ∀ i, i < 16 → s.lk.len.toNat ≤ i → s.lk.byte i = 0#8

/-- ENG and STATUS agree (10_state.md R24, R57, 40_command.md R121, R123, 60_exceptions.md R240). -/
structure State.EngineInv (s : State) : Prop where
  held : s.rstN = false → s.eng = .idle
  opcode : s.status.op = s.cmd.extractLsb' 0 8
  notDone : s.busy = true → s.status.done = false
  noCode : s.busy = true → s.status.code = 0x00#8
  legalCode : s.status.code.toNat ≤ 8
  info : s.busy = false → s.status.code.toNat < 2 → s.errInfo = 0#32

/-- The result registers hold values that their rules can give (42_frame_sync.md R168, 43_burst_crc.md R184 to R188,
10_state.md R32, R40, R43, R44, R48, R55). -/
structure State.ResultInv (s : State) : Prop where
  nfe : s.demodOut.nfe.toNat ≤ 4096
  syncCount : s.syncResult.count.toNat ≤ 64
  syncBest : s.syncResult.best.toNat ≤ 22
  syncOvf : s.syncResult.ovf = true → s.syncResult.count.toNat = 64
  syncPass : (s.syncResult.pass.toNat ≤ 3 ∧ 0 < s.syncResult.count.toNat) ∨
    (s.syncResult.pass.toNat = 7 ∧ s.syncResult.count.toNat = 0)
  burstKind : (s.burstResult.btype.toNat = 0 ∧ s.burstResult.tsLen.toNat = 0) ∨
    (s.burstResult.btype.toNat = 1 ∧ s.burstResult.tsLen.toNat = 14) ∨
    (s.burstResult.btype.toNat = 4 ∧ s.burstResult.tsLen.toNat = 22)
  burstTs : s.burstTs.toNat < 2 ^ s.burstResult.tsLen.toNat
  midMatch : s.burstResult.midMatch.toNat ≤ 22
  hdNat : s.crcResult.hdNat.toNat ≤ 16
  hdRev : s.crcResult.hdRev.toNat ≤ 16
  order : s.crcResult.order = true → s.crcResult.ok = true
  nblk : s.teaNblk.toNat ≤ 64

/-- The invariant of the machine. -/
structure State.Inv (s : State) : Prop where
  mem : s.MemInv
  key : s.KeyInv
  engine : s.EngineInv
  result : s.ResultInv

end Sys2Proof.Machine
end

