-- ==== Sys2Proof/Certificates/Slice0/Obligations.lean ====
section
/-! DEFINITION. The statements for the provers. The helpers of `Sys2Proof.Spec` say the spec's rules in their own terms
(finite sums, counts of agreeing positions, a declarative list of recorded positions), apart from the model's functions. -/

namespace Sys2Proof.Spec

open Sys2Proof.Machine

/-! ## Completion and frames -/

/-- What `complete(code, info)` does to STATUS, ERR_INFO, IRQ_STATUS and ENG (40_command.md R123). -/
structure Completes (s t : State) (c : Byte) (v : Word) : Prop where
  code : t.status.code = c
  done : t.status.done = true
  idle : t.eng = .idle
  irqDone : t.irq.done = true
  irqErr : t.irq.err = (s.irq.err || decide (2 ≤ c.toNat))
  info : t.errInfo = if 2 ≤ c.toNat then v else 0#32

/-- What no command writes: CMD, the rest of STATUS, IRQ_EN, every operand register, the pin and the model's own
fields. -/
structure KeepsOperands (s t : State) : Prop where
  cmd : t.cmd = s.cmd
  op : t.status.op = s.status.op
  wbusy : t.status.wbusy = s.status.wbusy
  doneEn : t.irq.doneEn = s.irq.doneEn
  errEn : t.irq.errEn = s.irq.errEn
  demod : t.demod = s.demod
  sync : t.sync = s.sync
  burst : t.burst = s.burst
  crc : t.crc = s.crc
  tea : t.tea = s.tea
  rstN : t.rstN = s.rstN
  inputs : t.inputs = s.inputs
  response : t.response = s.response
  draws : t.draws = s.draws

/-- Every output of every command but the buffers is as before. -/
structure KeepsResults (s t : State) : Prop where
  demodOut : t.demodOut = s.demodOut
  symCount : t.symCount = s.symCount
  syncResult : t.syncResult = s.syncResult
  burstResult : t.burstResult = s.burstResult
  burstTs : t.burstTs = s.burstTs
  crcValue : t.crcValue = s.crcValue
  crcResult : t.crcResult = s.crcResult
  teaNblk : t.teaNblk = s.teaNblk
  lk : t.lk = s.lk

/-- A completion with a code other than OK: STATUS, ERR_INFO, IRQ_STATUS and ENG as R123 says, all else as before. -/
structure FailsWith (s t : State) (code : Byte) (info : Word) : Prop where
  completes : Completes s t code info
  operands : KeepsOperands s t
  results : KeepsResults s t
  mem : t.mem = s.mem

/-- Two states with the same completion and the same outputs. -/
structure SameOutcome (s t : State) : Prop where
  code : t.status.code = s.status.code
  errInfo : t.errInfo = s.errInfo
  results : KeepsResults s t
  mem : t.mem = s.mem

/-! ## The demodulator -/

/-- The sequence x of 41_demodulator.md R142. -/
def demodX (s : State) : List Cplx :=
  if s.demod.feEn = true then frontEnd ((List.range s.demod.nsamp.toNat).map s.mem.sample)
  else (List.range s.demod.nsamp.toNat).map s.mem.sample

/-- `x[k]`. -/
def at0 (x : List Cplx) (k : Nat) : Cplx := x.getD k { re := 0, im := 0 }

/-- `n_p` of 41_demodulator.md R143. -/
def samplesAtPhase (N S p : Nat) : Nat := if p < N then (N - 1 - p) / S + 1 else 0

/-- `E_p` of 41_demodulator.md R143. -/
def energyAtPhase (x : List Cplx) (S p : Nat) : Int :=
  ∑ k ∈ Finset.range (samplesAtPhase x.length S p), ((at0 x (p + k * S)).re ^ 2 + (at0 x (p + k * S)).im ^ 2)

/-- Phase q is no better than phase p: `E_p · n_q ≥ E_q · n_p` (41_demodulator.md R143). -/
def notBetter (x : List Cplx) (S p q : Nat) : Prop :=
  energyAtPhase x S q * (samplesAtPhase x.length S p : Int) ≤ energyAtPhase x S p * (samplesAtPhase x.length S q : Int)

/-- The set C of 41_demodulator.md R143. -/
def isCandidate (x : List Cplx) (S p : Nat) : Prop := p < S ∧ 0 < samplesAtPhase x.length S p

/-- P of 41_demodulator.md R143: 0 when C is empty, else the least p in C that no q in C beats. -/
def IsChosenPhase (x : List Cplx) (S P : Nat) : Prop :=
  ((∀ p, ¬isCandidate x S p) ∧ P = 0) ∨
    (isCandidate x S P ∧ (∀ q, isCandidate x S q → notBetter x S P q) ∧
      ∀ p, p < P → isCandidate x S p → ∃ q, isCandidate x S q ∧ ¬notBetter x S p q)

/-- The bucket of a product (41_demodulator.md R146). -/
def IsBucket (re im : Int) (q : BitVec 2) : Prop :=
  (re = 0 ∧ im = 0 → q = 0#2) ∧ (0 ≤ im ∧ 0 < re → q = 0#2) ∧
    (0 ≤ im ∧ re ≤ 0 ∧ ¬(re = 0 ∧ im = 0) → q = 1#2) ∧ (im < 0 ∧ 0 ≤ re → q = 2#2) ∧ (im < 0 ∧ re < 0 → q = 3#2)

/-! ## The synchronizer and the burst parser -/

/-- At how many of n positions two bit functions agree (00_scope.md R8). -/
def agreeing (n : Nat) (f g : Nat → Bool) : Nat := ((Finset.range n).filter fun t => f t = g t).card

/-- Pattern bit t of a training-sequence register (10_state.md R34). -/
def patternBit (ts : BitVec 22) (t : Nat) : Bool := ts.getLsbD (21 - t)

/-- The larger match count, against TS1 or TS2, of the 22 symbol bits from bit j on (42_frame_sync.md R163). -/
def matchAt (s : State) (j : Nat) : Nat :=
  max (agreeing 22 (fun t => s.mem.sbit (j + t)) (patternBit s.sync.ts1))
    (agreeing 22 (fun t => s.mem.sbit (j + t)) (patternBit s.sync.ts2))

/-- `c_i` of 42_frame_sync.md R163. -/
def countAt (s : State) (i : Nat) : Nat := matchAt s (s.sync.start.toNat + i)

/-- How many offsets 0 … L-22 there are, `L = 2·COUNT - START` (42_frame_sync.md R162, R163). -/
def offsetsOf (s : State) : Nat := 2 * s.symCount.toNat - s.sync.start.toNat - 21

/-- B is the largest `c_i` (42_frame_sync.md R164). -/
def IsBest (s : State) (B : Nat) : Prop :=
  (∀ i, i < offsetsOf s → countAt s i ≤ B) ∧ ∃ i, i < offsetsOf s ∧ countAt s i = B

/-- The list that a scan records (42_frame_sync.md R165), said without the loop: it rises by at least SKIP, every
entry qualifies, and every offset that qualifies lies less than SKIP at or after an entry. -/
def IsScan (Q : Nat → Prop) (n skip : Nat) (l : List Nat) : Prop :=
  l.Pairwise (fun a b => a + skip ≤ b) ∧ (∀ i ∈ l, i < n ∧ Q i) ∧
    ∀ i, i < n → Q i → ∃ j ∈ l, j ≤ i ∧ i < j + skip

/-- A pass with a threshold in thousandths qualifies an offset (42_frame_sync.md R166). -/
def qualifies (s : State) (th : BitVec 16) (i : Nat) : Prop := 22 * th.toNat ≤ 1000 * countAt s i

/-- A pass with a threshold records nothing. -/
def passEmpty (s : State) (th : BitVec 16) : Prop := ∀ i, i < offsetsOf s → ¬qualifies s th i

/-- The list of a pass with a threshold. -/
def IsPassList (s : State) (th : BitVec 16) (l : List Nat) : Prop :=
  l ≠ [] ∧ IsScan (qualifies s th) (offsetsOf s) s.sync.skip.toNat l

/-- What the cascade and the adaptive pass end with (42_frame_sync.md R166, R167). -/
def IsFound (s : State) (B pass : Nat) (l : List Nat) : Prop :=
  (pass = 0 ∧ IsPassList s s.sync.thr0 l) ∨
  (pass = 1 ∧ passEmpty s s.sync.thr0 ∧ IsPassList s s.sync.thr1 l) ∨
  (pass = 2 ∧ passEmpty s s.sync.thr0 ∧ passEmpty s s.sync.thr1 ∧ IsPassList s s.sync.thr2 l) ∨
  (pass = 3 ∧ passEmpty s s.sync.thr0 ∧ passEmpty s s.sync.thr1 ∧ passEmpty s s.sync.thr2 ∧
    22 * s.sync.floor.toNat ≤ 1000 * B ∧ l ≠ [] ∧
    IsScan (fun i => max (22 * (s.sync.floor.toNat : Int)) (1000 * (B : Int) - 22 * (s.sync.margin.toNat : Int)) ≤
      1000 * (countAt s i : Int)) (offsetsOf s) s.sync.skip.toNat l) ∨
  (pass = 7 ∧ passEmpty s s.sync.thr0 ∧ passEmpty s s.sync.thr1 ∧ passEmpty s s.sync.thr2 ∧
    1000 * B < 22 * s.sync.floor.toNat ∧ l = [])

/-- The value of n bits of a bit function, first bit most significant (00_scope.md R8). -/
def bitsNat (n : Nat) (f : Nat → Bool) : Nat := ∑ t ∈ Finset.range n, (f t).toNat * 2 ^ (n - 1 - t)

/-- The bits of the burst, `b_t` (43_burst_crc.md R183). -/
def burstBit (s : State) (t : Nat) : Bool := s.mem.sbit (s.burst.start.toNat + t)

/-- The data bits of the burst (43_burst_crc.md R185): `b[0:108) ++ b[122:230)`. -/
def burstDataBit (s : State) (j : Nat) : Bool := if j < 108 then burstBit s j else burstBit s (j + 14)

/-- How many 1 bits a 16-bit value has (00_scope.md R8). -/
def ones16 (v : BitVec 16) : Nat := ((Finset.range 16).filter fun i => v.getLsbD i = true).card

/-- The CRC fields that a check of n ≥ 16 bits of a bit function leaves in CRC_VALUE and CRC_RESULT, with a tolerance
(43_burst_crc.md R181, R186, R188). -/
def IsCrcOutcome (n maxHd : Nat) (f : Nat → Bool) (v : CrcValue) (r : CrcResult) : Prop :=
  v.nat = crc16 ((List.range (n - 16)).map f) ∧
  v.rev = crc16 ((List.range (n - 16)).map f).reverse ∧
  r.rx.toNat = bitsNat 16 (fun t => f (n - 16 + t)) ∧
  r.hdNat.toNat = ones16 (v.nat ^^^ r.rx) ∧
  r.hdRev.toNat = ones16 (v.rev ^^^ r.rx) ∧
  (r.ok = true ↔ r.hdNat.toNat ≤ maxHd ∨ r.hdRev.toNat ≤ maxHd) ∧
  (r.order = true ↔ maxHd < r.hdNat.toNat ∧ r.hdRev.toNat ≤ maxHd)

/-! ## The decryptor -/

/-- One step of the test reference encryptor (95_test_vectors.md section 8): v0, then v1 with the new v0. -/
def encRound (k : KeyWords) (sum : Word) (h : Halves) : Halves :=
  let v0 := h.v0 + (((h.v1 <<< 4) + k.k0) ^^^ (h.v1 + sum) ^^^ ((h.v1 >>> 5) + k.k1))
  let v1 := h.v1 + (((v0 <<< 4) + k.k2) ^^^ (v0 + sum) ^^^ ((v0 >>> 5) + k.k3))
  { v0 := v0, v1 := v1 }

/-- Its rounds: the sum rises by delta before each. -/
def encRounds (k : KeyWords) : Nat → Word → Halves → Halves
  | 0, _, h => h
  | n + 1, sum, h => encRounds k n (sum + 0x9E3779B9#32) (encRound k (sum + 0x9E3779B9#32) h)

/-- TEA_ENC, the test reference encryptor (95_test_vectors.md section 8). It is no part of the block. -/
def teaEnc (block : List Byte) (k : KeyWords) : List Byte := packBlock (encRounds k 32 0#32 (unpackBlock block))

/-- The transform and key words that LK selects (44_tea.md R212), for the encryptor. -/
def encWith (k : LatchedKey) (block : List Byte) : List Byte :=
  teaEnc block (if k.alg.toNat = 0 then tea1Words k else tea2Words k)

/-- What the j-th byte of plaintext block i is XORed with: nothing in ECB, in CBC the IV byte for block 0 and the
ciphertext of the block before for the others (44_tea.md R219). -/
def feedback (s : State) (i j : Nat) : Byte :=
  if s.tea.cbc = true then (if i = 0 then s.tea.ivByte j else s.mem.cin (8 * (i - 1) + j)) else 0#8

/-- What TEA_DEC answers with a block transform `D` (44_tea.md R219): each plaintext byte, the block count, and nothing else. -/
structure TeaDecResult (D : List Byte → List Byte) (s t : State) : Prop where
  completes : Completes s t 0x00#8 0#32
  operands : KeepsOperands s t
  plain : ∀ i j, i < s.tea.len.toNat / 8 → j < 8 →
    t.mem.cout (8 * i + j) = (D (s.mem.cinBlock i)).getD j 0#8 ^^^ feedback s i j
  otherBytes : ∀ a, a < coutBase ∨ coutBase + s.tea.len.toNat ≤ a → t.mem.byte a = s.mem.byte a
  count : t.teaNblk.toNat = s.tea.len.toNat / 8
  results : KeepsResults { s with teaNblk := t.teaNblk } t

/-- What TEA_BLK answers with a block transform `D` (44_tea.md R222). -/
structure TeaBlkResult (D : List Byte → List Byte) (s t : State) : Prop where
  completes : Completes s t 0x00#8 0#32
  operands : KeepsOperands s t
  plain : ∀ j, j < 8 → t.mem.cout j = (D (s.mem.cinBlock 0)).getD j 0#8
  otherBytes : ∀ a, a < coutBase ∨ coutBase + 8 ≤ a → t.mem.byte a = s.mem.byte a
  count : t.teaNblk = 1#7
  results : KeepsResults { s with teaNblk := t.teaNblk } t

/-! ## The bus -/

/-- The first byte offset and the number of the buffer words that a command's rule lists as outputs, where `t` is what the
command answers in `s` (the "Outputs written on OK" lines): a partly written word counts whole, and where a check fails,
so that the rule gives no M or K, every word of the buffer counts (log 7). -/
def listedWords (s t : State) : Instr → Nat × Nat
  | .nop => (0x0000, 0)
  | .demod => (0x0800, if t.status.code = 0x00#8 then (t.symCount.toNat + 15) / 16 else 256)
  | .sync => (0x0100, if t.status.code = 0x00#8 then t.syncResult.count.toNat else 64)
  | .burst => (0x0200, 7)
  | .crcGen => (0x0000, 0)
  | .crcCheck => (0x0000, 0)
  | .teaKey => (0x0000, 0)
  | .teaDec => (0x0600, (min s.tea.len.toNat 512 + 3) / 4)
  | .teaBlk => (0x0600, 2)

/-- The bits of the register at a byte offset that belong to output fields of a command (the same lines). -/
def listedBits : Instr → Nat → Word
  | .demod, 0x028 => 0x000000FF#32
  | .demod, 0x02C => 0x00001FFF#32
  | .demod, 0x030 => 0x00001FFF#32
  | .sync, 0x058 => 0x00071FFF#32
  | .burst, 0x068 => 0x001F1F0F#32
  | .burst, 0x06C => 0x003FFFFF#32
  | .burst, 0x078 => 0xFFFFFFFF#32
  | .burst, 0x07C => 0xFFFF0FFF#32
  | .crcGen, 0x078 => 0xFFFFFFFF#32
  | .crcCheck, 0x078 => 0xFFFFFFFF#32
  | .crcCheck, 0x07C => 0xFFFF0FFF#32
  | .teaKey, 0x0A4 => 0x0000FF0F#32
  | .teaDec, 0x0A8 => 0x0000007F#32
  | .teaBlk, 0x0A8 => 0x0000007F#32
  | _, _ => 0x00000000#32

/-- The bits of the word at a byte offset that are outputs of a command. -/
def listedOutputs (s t : State) (i : Instr) (off : Nat) : Word :=
  if (listedWords s t i).1 ≤ off ∧ off < (listedWords s t i).1 + 4 * (listedWords s t i).2 then 0xFFFFFFFF#32
  else listedBits i off

/-- Every register that is not plain RW reads its fields at their places and 0 in its reserved bits (10_state.md R22 to R55). -/
structure ReadsFields (s : State) : Prop where
  id : s.readReg .id = 0x54454442#32
  cmd : s.readReg .cmd = s.cmd
  ctrl : s.readReg .ctrl = 0#32
  errInfo : s.readReg .errInfo = s.errInfo
  busy : (s.readReg .status).getLsbD 0 = true ↔ ∃ d, s.eng = .running d
  done : (s.readReg .status).getLsbD 1 = s.status.done
  statusLow : (s.readReg .status).extractLsb' 2 6 = 0#6
  code : (s.readReg .status).extractLsb' 8 8 = s.status.code
  op : (s.readReg .status).extractLsb' 16 8 = s.status.op
  wbusy : (s.readReg .status).getLsbD 24 = s.status.wbusy
  statusHigh : (s.readReg .status).extractLsb' 25 7 = 0#7
  irqDone : (s.readReg .irqStatus).getLsbD 0 = s.irq.done
  irqErr : (s.readReg .irqStatus).getLsbD 1 = s.irq.err
  irqHigh : (s.readReg .irqStatus).extractLsb' 2 30 = 0#30
  phase : s.readReg .demodPhase = s.demodOut.phase.setWidth 32
  nfe : s.readReg .demodNfe = s.demodOut.nfe.setWidth 32
  symCount : s.readReg .symCount = s.symCount.setWidth 32
  syncCount : (s.readReg .syncResult).extractLsb' 0 7 = s.syncResult.count
  syncOvf : (s.readReg .syncResult).getLsbD 7 = s.syncResult.ovf
  syncBest : (s.readReg .syncResult).extractLsb' 8 5 = s.syncResult.best
  syncMid : (s.readReg .syncResult).extractLsb' 13 3 = 0#3
  syncPass : (s.readReg .syncResult).extractLsb' 16 3 = s.syncResult.pass
  syncHigh : (s.readReg .syncResult).extractLsb' 19 13 = 0#13
  burstType : (s.readReg .burstResult).extractLsb' 0 3 = s.burstResult.btype
  burstCrcOk : (s.readReg .burstResult).getLsbD 3 = s.burstResult.crcOk
  burstLow : (s.readReg .burstResult).extractLsb' 4 4 = 0#4
  burstTsLen : (s.readReg .burstResult).extractLsb' 8 5 = s.burstResult.tsLen
  burstMid : (s.readReg .burstResult).extractLsb' 13 3 = 0#3
  burstMatch : (s.readReg .burstResult).extractLsb' 16 5 = s.burstResult.midMatch
  burstHigh : (s.readReg .burstResult).extractLsb' 21 11 = 0#11
  burstTs : s.readReg .burstTs = s.burstTs.setWidth 32
  crcNat : (s.readReg .crcValue).extractLsb' 0 16 = s.crcValue.nat
  crcRev : (s.readReg .crcValue).extractLsb' 16 16 = s.crcValue.rev
  crcOk : (s.readReg .crcResult).getLsbD 0 = s.crcResult.ok
  crcOrder : (s.readReg .crcResult).getLsbD 1 = s.crcResult.order
  crcHdNat : (s.readReg .crcResult).extractLsb' 2 5 = s.crcResult.hdNat
  crcHdRev : (s.readReg .crcResult).extractLsb' 7 5 = s.crcResult.hdRev
  crcMid : (s.readReg .crcResult).extractLsb' 12 4 = 0#4
  crcRx : (s.readReg .crcResult).extractLsb' 16 16 = s.crcResult.rx
  keyValid : (s.readReg .teaState).getLsbD 0 = s.lk.valid
  keyAlg : (s.readReg .teaState).extractLsb' 1 3 = s.lk.alg
  keyLow : (s.readReg .teaState).extractLsb' 4 4 = 0#4
  keyLen : (s.readReg .teaState).extractLsb' 8 8 = s.lk.len
  keyHigh : (s.readReg .teaState).extractLsb' 16 16 = 0#16
  nblk : s.readReg .teaNblk = s.teaNblk.setWidth 32

/-- An input that resets nothing: no edge of `rst_n` to low and no write of 1 to CTRL.SRST. -/
def harmless : Input → Prop
  | .idle => True
  | .releaseReset => True
  | .assertReset => False
  | .access (.read _ _) => True
  | .access (.write _ off v) => ¬(off = 0x014 ∧ v.getLsbD 0 = true)

/-- Some steps in a row, all answering next states. -/
def steps : Nat → State → Option State
  | 0, s => some s
  | n + 1, s =>
    match step s with
    | .next t => steps n t
    | .fault _ => none
    | .refused _ => none

/-- The bits of a RW configuration register that store what is written (10_state.md R29 to R53). -/
def rwMask : Reg → Option Word
  | .irqEn => some 0x00000003#32
  | .demodCfg => some 0x000001FF#32
  | .demodNsamp => some 0x00001FFF#32
  | .symCount => some 0x00001FFF#32
  | .syncTs1 => some 0x003FFFFF#32
  | .syncTs2 => some 0x003FFFFF#32
  | .syncThr01 => some 0xFFFFFFFF#32
  | .syncThr2f => some 0xFFFFFFFF#32
  | .syncAdapt => some 0xFFFFFFFF#32
  | .syncStart => some 0x00003FFF#32
  | .burstStart => some 0x00003FFF#32
  | .burstCfg => some 0x0000FFFF#32
  | .crcNbits => some 0x000007FF#32
  | .crcCfg => some 0x0000001F#32
  | .teaCfg => some 0x00000107#32
  | .teaKeylen => some 0x000000FF#32
  | .teaKey0 => some 0xFFFFFFFF#32
  | .teaKey1 => some 0xFFFFFFFF#32
  | .teaKey2 => some 0xFFFFFFFF#32
  | .teaKey3 => some 0xFFFFFFFF#32
  | .teaIv0 => some 0xFFFFFFFF#32
  | .teaIv1 => some 0xFFFFFFFF#32
  | .teaLen => some 0x000003FF#32
  | _ => none

/-- The registers with RO fields only (10_state.md R22 to R55), and SRST, which stores nothing when 0 is written. -/
def readOnly : Reg → Bool
  | .id | .errInfo | .demodPhase | .demodNfe | .syncResult | .burstResult | .burstTs | .crcValue | .crcResult
  | .teaState | .teaNblk => true
  | _ => false

/-- The reset column of 10_state.md, register by register. -/
def resetValue : Reg → Word
  | .id => 0x54454442#32
  | .demodCfg => 0x0000010D#32
  | .syncTs1 => Config.ts1Reset.setWidth 32
  | .syncTs2 => Config.ts2Reset.setWidth 32
  | .syncThr01 => 0x03520384#32
  | .syncThr2f => 0x02EE0320#32
  | .syncAdapt => 0x00FA0014#32
  | .syncResult => 0x00070000#32
  | .burstCfg => 0x00000320#32
  | .crcCfg => 0x00000002#32
  | _ => 0x00000000#32

end Sys2Proof.Spec

open Sys2Proof Sys2Proof.Machine Sys2Proof.Spec

/-! ## Encoding -/

/-- 30_encoding.md R102: the nine command words, written out from the opcode map. -/
def Obligations.NineWordsDecodeToTheirCommands : Prop :=
  decode 0x00000000#32 = .ok .nop ∧ decode 0x00000001#32 = .ok .demod ∧ decode 0x00000002#32 = .ok .sync ∧
  decode 0x00000003#32 = .ok .burst ∧ decode 0x00000004#32 = .ok .crcGen ∧ decode 0x00000005#32 = .ok .crcCheck ∧
  decode 0x00000006#32 = .ok .teaKey ∧ decode 0x00000007#32 = .ok .teaDec ∧ decode 0x00000008#32 = .ok .teaBlk

/-- 30_encoding.md R100, R102: a word decodes to a command exactly when it is that command's one encoding. -/
def Obligations.DecodeIsTheInverseOfEncode : Prop :=
  ∀ (i : Instr) (w : Word), decode w = .ok i ↔ w = encode i

/-- 30_encoding.md R101, R103: the words the decoder refuses are exactly those with a bit of RSVD set or an OPCODE of
0x09 to 0xFF. -/
def Obligations.IllegalWordsAreExactlyThoseOfTheRule : Prop :=
  ∀ w : Word, (∃ e, decode w = .error e) ↔ (w.extractLsb' 8 24 ≠ 0#24 ∨ 0x09 ≤ (w.extractLsb' 0 8).toNat)

/-! ## The step -/

/-- A step runs the decoded command: when a command runs, its delay is over and `rst_n` is released, the step is `exec` of
what CMD.WORD decodes to, at that very state, and so for every pair of block transforms (00_scope.md R6), `exec` being
the machine at the default ones. That the engine's op is the decoding of CMD.WORD is the model's (log 10). -/
def Obligations.StepRunsTheDecodedCommand : Prop :=
  ∀ (s : State) (i : Instr), s.rstN = true → s.eng = .running 0 → decode s.cmd = .ok i →
    step s = exec i s ∧ (∀ x : TeaTransforms, stepWith x s = execWith x i s) ∧ exec i s = execWith .defaults i s

/-- A word placed where the engine fetches is run by the very next step (the model's `withFetchWord`, log 9). -/
def Obligations.PlacedCommandRunsNext : Prop :=
  ∀ (s : State) (i : Instr),
    step (s.withFetchWord 32 (encode i).toNat) = exec i (s.withFetchWord 32 (encode i).toNat) ∧
    (s.withFetchWord 32 (encode i).toNat).cmd = encode i ∧
    (s.withFetchWord 32 (encode i).toNat).eng = .running 0

/-- 30_encoding.md R103, 40_command.md R128: an illegal word written to CMD starts a command, which completes
BAD_COMMAND with ERR_INFO the whole word and STATUS.OP its low byte, and changes nothing else. The host's write stands
in `inputs` (log 9). -/
def Obligations.IllegalCommandCompletesBadCommand : Prop :=
  (∀ s : State, s.rstN = true → s.eng = .running 0 →
    (s.cmd.extractLsb' 8 24 ≠ 0#24 ∨ 0x09 ≤ (s.cmd.extractLsb' 0 8).toNat) →
    ∃ t, step s = .next t ∧ FailsWith s t 0x07#8 s.cmd) ∧
  ∀ (s : State) (w : Word) (rest : List Input), s.eng = .idle → s.rstN = true →
    (w.extractLsb' 8 24 ≠ 0#24 ∨ 0x09 ≤ (w.extractLsb' 0 8).toNat) →
    s.inputs = .access (.write 4 0x004 w) :: rest → (∀ x ∈ rest, harmless x) →
    ∃ n t, steps n s = some t ∧ t.eng = .idle ∧ t.status.done = true ∧ t.status.code = 0x07#8 ∧
      t.status.op = w.extractLsb' 0 8 ∧ t.errInfo = w ∧ t.irq.done = true ∧ t.irq.err = true ∧ t.cmd = w ∧
      KeepsResults s t ∧ t.mem = s.mem

/-- The outside world moves whenever no completion is due: the engine only counts down, and the next input takes effect, a
bus access, an edge of `rst_n`, or nothing; with no input due, nothing happens. The turns of the two agents are the model's
(log 8, log 9). -/
def Obligations.OutsideWorldMovesOtherwise : Prop :=
  ∀ (s : State) (rest : List Input), (s.eng = .idle ∨ (∃ d, s.eng = .running (d + 1)) ∨ s.rstN = false) →
    (s.inputs = [] → step s = .next (s.waited [])) ∧
    (s.inputs = .idle :: rest → step s = .next (s.waited rest)) ∧
    (∀ a, s.inputs = .access a :: rest → step s = .next ((s.waited rest).hostAccess a)) ∧
    (s.inputs = .assertReset :: rest → step s = .next (s.waited rest).hardReset) ∧
    (s.inputs = .releaseReset :: rest → step s = .next (s.waited rest).releaseReset) ∧
    (s.eng = .idle ∨ s.eng = .running 0 → s.waited rest = { s with inputs := rest }) ∧
    (∀ d, s.eng = .running (d + 1) → s.waited rest = { s with eng := .running d, inputs := rest })

/-- The block never halts: every step from every state answers a next state (60_exceptions.md, its opening). -/
def Obligations.EveryStepAnswersANextState : Prop := ∀ s : State, s.continues

/-! ## The life cycle -/

/-- 40_command.md R120, R121: a write to CMD while ENG is Idle starts the command: CMD takes the word, DONE and CODE
are cleared, OP takes the opcode, BUSY is set, and ERR_INFO, IRQ_STATUS, every output, operand and buffer keep their
values. The delay is free (log 4); the write stands in `inputs` (log 9). -/
def Obligations.CmdWriteStartsTheCommand : Prop :=
  ∀ (s : State) (w : Word) (rest : List Input), s.eng = .idle → s.rstN = true →
    s.inputs = .access (.write 4 0x004 w) :: rest →
    ∃ t d, step s = .next t ∧ t.cmd = w ∧ t.eng = .running d ∧ t.status.done = false ∧ t.status.code = 0x00#8 ∧
      t.status.op = w.extractLsb' 0 8 ∧ t.status.wbusy = s.status.wbusy ∧ t.errInfo = s.errInfo ∧ t.irq = s.irq ∧
      KeepsResults s t ∧ t.mem = s.mem ∧ t.demod = s.demod ∧ t.sync = s.sync ∧ t.burst = s.burst ∧ t.crc = s.crc ∧
      t.tea = s.tea ∧ t.inputs = rest ∧ t.rstN = true

/-- 40_command.md R120: from Idle a step starts a command exactly when it performs a write to CMD; while ENG is
Running a write to CMD is dropped. -/
def Obligations.CommandsStartExactlyAtCmdWritesWhileIdle : Prop :=
  (∀ s t : State, step s = .next t → s.eng = .idle →
    (t.eng ≠ .idle ↔ s.rstN = true ∧ ∃ w rest, s.inputs = .access (.write 4 0x004 w) :: rest)) ∧
  ∀ (s : State) (d : Nat) (w : Word), s.eng = .running d → s.rstN = true →
    s.hostAccess (.write 4 0x004 w) =
      { s with status := { s.status with wbusy := true }, response := some .accepted }

/-- 40_command.md R123, 60_exceptions.md R240, R243: whatever the command and the state, its completion sets DONE and
IRQ_STATUS.DONE, ends BUSY, gives a code of 0x00 to 0x08, sets IRQ_STATUS.ERR on a code of 0x02 or above and else
keeps it, leaves ERR_INFO 0 below 0x02, and writes no operand register. -/
def Obligations.EveryCommandCompletes : Prop :=
  ∀ (i : Instr) (s : State), ∃ t code info, exec i s = .next t ∧ Completes s t code info ∧ KeepsOperands s t ∧
    code.toNat ≤ 8

/-- 40_command.md R124: a completion with a code other than OK, whatever the command, changes no output register and
no buffer word, and nothing at all but STATUS, ERR_INFO, IRQ_STATUS and ENG, as R123 says. -/
def Obligations.FailedCommandLeavesEveryOutput : Prop :=
  ∀ s t : State, s.rstN = true → s.eng = .running 0 → step s = .next t → t.status.code ≠ 0x00#8 →
    ∃ info, FailsWith s t t.status.code info

/-- 70_reset_and_hazards.md R267: which command may write which output register; LK only TEA_KEY; the buffers only
DEMOD, SYNC, BURST, TEA_DEC and TEA_BLK. -/
def Obligations.EachCommandWritesOnlyItsOwnOutputs : Prop :=
  ∀ (i : Instr) (s t : State), exec i s = .next t →
    (i ≠ .demod → t.demodOut = s.demodOut ∧ t.symCount = s.symCount) ∧
    (i ≠ .sync → t.syncResult = s.syncResult) ∧
    (i ≠ .burst → t.burstResult = s.burstResult ∧ t.burstTs = s.burstTs) ∧
    (i ≠ .burst → i ≠ .crcGen → i ≠ .crcCheck → t.crcValue = s.crcValue) ∧
    (i ≠ .burst → i ≠ .crcCheck → t.crcResult = s.crcResult) ∧
    (i ≠ .teaKey → t.lk = s.lk) ∧
    (i ≠ .teaDec → i ≠ .teaBlk → t.teaNblk = s.teaNblk) ∧
    (i ≠ .demod → i ≠ .sync → i ≠ .burst → i ≠ .teaDec → i ≠ .teaBlk → t.mem = s.mem)

/-- Every byte outside the one buffer that the command may write reads as before: SYMBUF for DEMOD, SYNC_OUT for SYNC,
BITBUF for BURST, COUT for TEA_DEC and TEA_BLK, none for the others. -/
def Obligations.EachCommandWritesOnlyItsOwnBuffer : Prop :=
  ∀ (i : Instr) (s t : State) (a : Nat), exec i s = .next t →
    ¬(i = .demod ∧ regionOf a = .symbuf) → ¬(i = .sync ∧ regionOf a = .syncOut) →
    ¬(i = .burst ∧ regionOf a = .bitbuf) → ¬((i = .teaDec ∨ i = .teaBlk) ∧ regionOf a = .cout) →
    t.mem.byte a = s.mem.byte a

/-- 40_command.md R122, 20_memory.md R86: what happens on the bus while a command runs, short of a reset, does not
change what the command will answer. Reading the operands at the completion step is the model's (log 15). -/
def Obligations.WaitingDoesNotChangeTheResult : Prop :=
  ∀ (i : Instr) (s : State) (d : Nat), s.eng = .running (d + 1) → (∀ x ∈ s.inputs.head?, harmless x) →
    ∃ r r', exec i s = .next r ∧ exec i s.hostTurn = .next r' ∧ SameOutcome r r'

/-- 70_reset_and_hazards.md R270, 40_command.md R122: a started command completes once its finite delay is over,
whatever the host does meanwhile, short of a reset. The delay counts host turns (log 4). -/
def Obligations.StartedCommandCompletes : Prop :=
  ∀ (d : Nat) (s : State), s.rstN = true → s.eng = .running d → (∀ x ∈ s.inputs.take d, harmless x) →
    ∃ t, steps (d + 1) s = some t ∧ t.eng = .idle ∧ t.status.done = true ∧ t.irq.done = true ∧
      t.inputs = s.inputs.drop d

/-- 40_command.md R120 to R123: the whole life of a command. From Idle, with a write of its word to CMD due and no
reset among what follows, the machine comes to rest with the completion and the outputs that the command's rule gives
for the registers and buffers as they stood at the write. The host's turns stand in `inputs` (log 8, log 9). -/
def Obligations.CommandRunsFromItsWriteToItsResult : Prop :=
  ∀ (i : Instr) (s : State) (rest : List Input), s.eng = .idle → s.rstN = true →
    s.inputs = .access (.write 4 0x004 (encode i)) :: rest → (∀ x ∈ rest, harmless x) →
    ∃ n t r, steps n s = some t ∧ exec i (s.start (encode i) 0) = .next r ∧ SameOutcome r t ∧ t.eng = .idle ∧
      t.status.done = true ∧ t.status.op = opcode i

/-! ## NOP -/

/-- 40_command.md R127: NOP is the word 0, completes OK and changes nothing else; STATUS then reads 0x00000002 when
the command started was NOP and WBUSY is 0. -/
def Obligations.NopCompletesOk : Prop :=
  decode 0x00000000#32 = .ok .nop ∧
  ∀ s : State, ∃ t, exec .nop s = .next t ∧ FailsWith s t 0x00#8 0#32 ∧
    (s.status.op = 0x00#8 → s.status.wbusy = false → t.readReg .status = 0x00000002#32)

/-! ## DEMOD -/

/-- 41_demodulator.md R141: the checks, in their order. -/
def Obligations.DemodRefusesBadConfiguration : Prop :=
  ∀ s : State,
    (s.demod.sps.toNat = 0 → ∃ t, exec .demod s = .next t ∧ FailsWith s t 0x08#8 0x020#32) ∧
    (s.demod.sps.toNat ≠ 0 → 4096 < s.demod.nsamp.toNat →
      ∃ t, exec .demod s = .next t ∧ FailsWith s t 0x08#8 0x024#32)

/-- 41_demodulator.md R142 to R147: DEMOD completes OK with the least phase of greatest average power, the symbols of
the consecutive differential products at it, and the lengths; other symbols and bytes keep their values. -/
def Obligations.DemodWritesTheSymbolsOfTheBestPhase : Prop :=
  ∀ s : State, s.demod.sps.toNat ≠ 0 → s.demod.nsamp.toNat ≤ 4096 →
    ∃ (t : State) (P : Nat), exec .demod s = .next t ∧ Completes s t 0x00#8 0#32 ∧ KeepsOperands s t ∧
      IsChosenPhase (demodX s) s.demod.sps.toNat P ∧
      t.demodOut.phase.toNat = P ∧ t.demodOut.nfe.toNat = (demodX s).length ∧
      t.symCount.toNat = samplesAtPhase (demodX s).length s.demod.sps.toNat P - 1 ∧ t.symCount.toNat ≤ 4095 ∧
      (∀ k, k < t.symCount.toNat →
        IsBucket
          ((at0 (demodX s) (P + (k + 1) * s.demod.sps.toNat)).re * (at0 (demodX s) (P + k * s.demod.sps.toNat)).re +
            (at0 (demodX s) (P + (k + 1) * s.demod.sps.toNat)).im * (at0 (demodX s) (P + k * s.demod.sps.toNat)).im)
          ((at0 (demodX s) (P + (k + 1) * s.demod.sps.toNat)).im * (at0 (demodX s) (P + k * s.demod.sps.toNat)).re -
            (at0 (demodX s) (P + (k + 1) * s.demod.sps.toNat)).re * (at0 (demodX s) (P + k * s.demod.sps.toNat)).im)
          (t.mem.sym k)) ∧
      (∀ k, t.symCount.toNat ≤ k → t.mem.sym k = s.mem.sym k) ∧
      (∀ a, a < symbufBase ∨ symbufBase + 4 * ((t.symCount.toNat + 15) / 16) ≤ a → t.mem.byte a = s.mem.byte a) ∧
      t.syncResult = s.syncResult ∧ t.burstResult = s.burstResult ∧ t.burstTs = s.burstTs ∧ t.crcValue = s.crcValue ∧
      t.crcResult = s.crcResult ∧ t.teaNblk = s.teaNblk ∧ t.lk = s.lk

/-- 41_demodulator.md R148: zero or one input sample gives an empty output, completed OK. -/
def Obligations.DemodOfAtMostOneSampleIsEmpty : Prop :=
  ∀ s : State, s.demod.sps.toNat ≠ 0 → s.demod.nsamp.toNat ≤ 1 →
    ∃ t, exec .demod s = .next t ∧ t.status.code = 0x00#8 ∧ t.symCount = 0#13 ∧ t.mem = s.mem

/-- 41_demodulator.md R148: with the front end bypassed, samples that are all 0 give phase 0 and ceil(N/S) - 1
symbols, all 0. -/
def Obligations.DemodOfSilenceIsAllZeroSymbols : Prop :=
  ∀ s : State, s.demod.sps.toNat ≠ 0 → 0 < s.demod.nsamp.toNat → s.demod.nsamp.toNat ≤ 4096 → s.demod.feEn = false →
    (∀ k, k < s.demod.nsamp.toNat → s.mem.sample k = { re := 0, im := 0 }) →
    ∃ t, exec .demod s = .next t ∧ t.status.code = 0x00#8 ∧ t.demodOut.phase = 0#8 ∧
      t.symCount.toNat = (s.demod.nsamp.toNat + s.demod.sps.toNat - 1) / s.demod.sps.toNat - 1 ∧
      ∀ k, k < t.symCount.toNat → t.mem.sym k = 0#2

/-- 41_demodulator.md R149: scaling every sample by the same positive factor changes neither the chosen phase nor any
symbol. -/
def Obligations.DemodIgnoresPositiveScaling : Prop :=
  ∀ (x : List Cplx) (S : Nat) (c : Int), 0 < c →
    bestPhase (x.map fun z => { re := c * z.re, im := c * z.im }) S = bestPhase x S ∧
    symbolsOf (phaseSamples (x.map fun z => { re := c * z.re, im := c * z.im }) S (bestPhase x S)) =
      symbolsOf (phaseSamples x S (bestPhase x S))

/-! ## SYNC -/

/-- 42_frame_sync.md R161, R162: the checks, in their order. -/
def Obligations.SyncRefusesBadConfigurationOrShortInput : Prop :=
  ∀ s : State,
    (4096 < s.symCount.toNat → ∃ t, exec .sync s = .next t ∧ FailsWith s t 0x08#8 0x030#32) ∧
    (s.symCount.toNat ≤ 4096 → s.sync.skip.toNat = 0 → ∃ t, exec .sync s = .next t ∧ FailsWith s t 0x08#8 0x050#32) ∧
    (s.symCount.toNat ≤ 4096 → s.sync.skip.toNat ≠ 0 → 2 * s.symCount.toNat < s.sync.start.toNat + 22 →
      ∃ t, exec .sync s = .next t ∧ FailsWith s t 0x01#8 0#32)

/-- 42_frame_sync.md R162 to R168: SYNC completes OK with the best match count over all offsets, the first pass of the
cascade that records a position (or the adaptive pass, or none), and the recorded positions, at most 64 of them. -/
def Obligations.SyncRecordsThePositionsOfTheFirstPassThatFindsAny : Prop :=
  ∀ s : State, s.symCount.toNat ≤ 4096 → s.sync.skip.toNat ≠ 0 → s.sync.start.toNat + 22 ≤ 2 * s.symCount.toNat →
    ∃ (t : State) (B pass : Nat) (l : List Nat), exec .sync s = .next t ∧ Completes s t 0x00#8 0#32 ∧
      KeepsOperands s t ∧ IsBest s B ∧ IsFound s B pass l ∧
      t.syncResult.best.toNat = B ∧ t.syncResult.pass.toNat = pass ∧ t.syncResult.count.toNat = min l.length 64 ∧
      (t.syncResult.ovf = true ↔ 64 < l.length) ∧
      (∀ e, e < min l.length 64 →
        (t.mem.syncOut e).extractLsb' 0 14 = BitVec.ofNat 14 (s.sync.start.toNat + l.getD e 0) ∧
        (t.mem.syncOut e).extractLsb' 14 2 = 0#2 ∧
        ((t.mem.syncOut e).extractLsb' 16 5).toNat = countAt s (l.getD e 0) ∧
        (t.mem.syncOut e).extractLsb' 21 11 = 0#11 ∧ s.sync.start.toNat + l.getD e 0 ≤ 8191) ∧
      (∀ a, a < syncOutBase ∨ syncOutBase + 4 * min l.length 64 ≤ a → t.mem.byte a = s.mem.byte a) ∧
      t.demodOut = s.demodOut ∧ t.symCount = s.symCount ∧ t.burstResult = s.burstResult ∧ t.burstTs = s.burstTs ∧
      t.crcValue = s.crcValue ∧ t.crcResult = s.crcResult ∧ t.teaNblk = s.teaNblk ∧ t.lk = s.lk

/-- 42_frame_sync.md R169: with the reset thresholds, floor and margin, the pass is decided by the best match count
alone: 0 from 20 on, 1 at 19, 2 at 18, the adaptive pass at 17, none below. -/
def Obligations.SyncPassFollowsTheBestCountAtResetThresholds : Prop :=
  ∀ s : State, s.symCount.toNat ≤ 4096 → s.sync.skip.toNat ≠ 0 → s.sync.start.toNat + 22 ≤ 2 * s.symCount.toNat →
    s.sync.thr0 = 900#16 → s.sync.thr1 = 850#16 → s.sync.thr2 = 800#16 → s.sync.floor = 750#16 → s.sync.margin = 20#16 →
    ∃ t, exec .sync s = .next t ∧ t.status.code = 0x00#8 ∧
      (20 ≤ t.syncResult.best.toNat → t.syncResult.pass = 0#3) ∧
      (t.syncResult.best.toNat = 19 → t.syncResult.pass = 1#3) ∧
      (t.syncResult.best.toNat = 18 → t.syncResult.pass = 2#3) ∧
      (t.syncResult.best.toNat = 17 → t.syncResult.pass = 3#3) ∧
      (t.syncResult.best.toNat ≤ 16 → t.syncResult.pass = 7#3 ∧ t.syncResult.count = 0#7)

/-! ## BURST and CRC -/

/-- 43_burst_crc.md R183: the checks, in their order. -/
def Obligations.BurstRefusesBadConfigurationOrShortInput : Prop :=
  ∀ s : State,
    (4096 < s.symCount.toNat → ∃ t, exec .burst s = .next t ∧ FailsWith s t 0x08#8 0x030#32) ∧
    (s.symCount.toNat ≤ 4096 → 2 * s.symCount.toNat < s.burst.start.toNat + 510 →
      ∃ t, exec .burst s = .next t ∧ FailsWith s t 0x01#8 0#32)

/-- 43_burst_crc.md R184 to R186: BURST completes OK with the type, the training sequence, the 216 data bits and the
tolerant check of them; other bits and bytes keep their values. -/
def Obligations.BurstSplitsTheBurstAndChecksItsCrc : Prop :=
  ∀ s : State, s.symCount.toNat ≤ 4096 → s.burst.start.toNat + 510 ≤ 2 * s.symCount.toNat →
    ∃ (t : State) (m len : Nat), exec .burst s = .next t ∧ Completes s t 0x00#8 0#32 ∧ KeepsOperands s t ∧
      m = matchAt s (s.burst.start.toNat + 244) ∧ t.burstResult.midMatch.toNat = m ∧
      (22 * s.burst.syncThr.toNat < 1000 * m → t.burstResult.btype = 4#3 ∧ len = 22) ∧
      (1000 * m ≤ 22 * s.burst.syncThr.toNat → t.burstResult.btype = 1#3 ∧ len = 14) ∧
      t.burstResult.tsLen.toNat = len ∧ t.burstTs.toNat = bitsNat len (fun u => burstBit s (108 + u)) ∧
      (∀ j, j < 216 → t.mem.bbit j = burstDataBit s j) ∧
      (∀ j, 216 ≤ j → t.mem.bbit j = s.mem.bbit j) ∧
      (∀ a, a < bitbufBase ∨ bitbufBase + 28 ≤ a → t.mem.byte a = s.mem.byte a) ∧
      IsCrcOutcome 216 s.crc.maxHd.toNat (burstDataBit s) t.crcValue t.crcResult ∧
      t.burstResult.crcOk = t.crcResult.ok ∧
      t.demodOut = s.demodOut ∧ t.symCount = s.symCount ∧ t.syncResult = s.syncResult ∧ t.teaNblk = s.teaNblk ∧
      t.lk = s.lk

/-- 43_burst_crc.md R187: CRC_GEN refuses more than 1024 bits, and else writes both CRCs and nothing else. -/
def Obligations.CrcGenWritesBothCrcs : Prop :=
  decode 0x00000004#32 = .ok .crcGen ∧
  ∀ s : State,
    (1024 < s.crc.nbits.toNat → ∃ t, exec .crcGen s = .next t ∧ FailsWith s t 0x08#8 0x070#32) ∧
    (s.crc.nbits.toNat ≤ 1024 →
      ∃ t, exec .crcGen s = .next t ∧ Completes s t 0x00#8 0#32 ∧ KeepsOperands s t ∧
        t.crcValue.nat = crc16 ((List.range s.crc.nbits.toNat).map s.mem.bbit) ∧
        t.crcValue.rev = crc16 ((List.range s.crc.nbits.toNat).map s.mem.bbit).reverse ∧
        KeepsResults { s with crcValue := t.crcValue } t ∧ t.mem = s.mem)

/-- 43_burst_crc.md R181, R188: CRC_CHECK refuses more than 1024 bits, has no result below 16, and else writes
CRC_VALUE and CRC_RESULT and nothing else. -/
def Obligations.CrcCheckReportsBothOrders : Prop :=
  decode 0x00000005#32 = .ok .crcCheck ∧
  ∀ s : State,
    (1024 < s.crc.nbits.toNat → ∃ t, exec .crcCheck s = .next t ∧ FailsWith s t 0x08#8 0x070#32) ∧
    (s.crc.nbits.toNat < 16 → ∃ t, exec .crcCheck s = .next t ∧ FailsWith s t 0x01#8 0#32) ∧
    (16 ≤ s.crc.nbits.toNat → s.crc.nbits.toNat ≤ 1024 →
      ∃ t, exec .crcCheck s = .next t ∧ Completes s t 0x00#8 0#32 ∧ KeepsOperands s t ∧
        IsCrcOutcome s.crc.nbits.toNat s.crc.maxHd.toNat s.mem.bbit t.crcValue t.crcResult ∧
        KeepsResults { s with crcValue := t.crcValue, crcResult := t.crcResult } t ∧ t.mem = s.mem)

/-- 43_burst_crc.md R180: the register of the CRC, bit by bit, in arithmetic: it starts at 0xFFFF, and each input bit
shifts it and XORs 0x1021 in when the bit shifted out differs from the input bit. -/
def Obligations.CrcRegisterFollowsTheShiftRule : Prop :=
  (crc16 []).toNat = 0xFFFF ∧
  ∀ (p : List Bool) (b : Bool),
    (crc16 (p ++ [b])).toNat =
      ((2 * (crc16 p).toNat) % 65536) ^^^
        (if (decide (32768 ≤ (crc16 p).toNat) ^^ b) = true then 0x1021 else 0)

/-- 43_burst_crc.md R189: a payload followed by its own CRC with the bits of e flipped has natural distance
popcount(e), whatever the payload, and passes in natural order whenever that distance is within the tolerance. -/
def Obligations.CrcRoundTripCountsExactlyTheFlippedBits : Prop :=
  ∀ (p : List Bool) (e : BitVec 16) (maxHd : Nat),
    (crcCheck maxHd (p ++ natBits 16 (crc16 p ^^^ e).toNat)).hn = ones16 e ∧
    (crcCheck maxHd (p ++ natBits 16 (crc16 p ^^^ e).toNat)).cn = crc16 p ∧
    (ones16 e ≤ maxHd →
      (crcCheck maxHd (p ++ natBits 16 (crc16 p ^^^ e).toNat)).ok = true ∧
      (crcCheck maxHd (p ++ natBits 16 (crc16 p ^^^ e).toNat)).order = false)

/-! ## TEA -/

/-- 44_tea.md R210: the checks of TEA_KEY, the algorithm before the length; a failed TEA_KEY leaves the
latched key. -/
def Obligations.TeaKeyRefusesUnknownAlgorithmsAndWrongLengths : Prop :=
  ∀ s : State,
    (4 ≤ s.tea.alg.toNat → ∃ t, exec .teaKey s = .next t ∧ FailsWith s t 0x03#8 (s.tea.alg.setWidth 32)) ∧
    (s.tea.alg.toNat = 0 → s.tea.keyLen.toNat ≠ 10 →
      ∃ t, exec .teaKey s = .next t ∧ FailsWith s t 0x02#8 (s.tea.keyLen.setWidth 32)) ∧
    (1 ≤ s.tea.alg.toNat → s.tea.alg.toNat ≤ 3 → s.tea.keyLen.toNat ≠ 16 →
      ∃ t, exec .teaKey s = .next t ∧ FailsWith s t 0x02#8 (s.tea.keyLen.setWidth 32))

/-- 44_tea.md R211: TEA_KEY latches the algorithm, the length and the key bytes below it, 0 above. -/
def Obligations.TeaKeyLatchesTheKey : Prop :=
  ∀ s : State,
    (s.tea.alg.toNat = 0 ∧ s.tea.keyLen.toNat = 10) ∨
      (1 ≤ s.tea.alg.toNat ∧ s.tea.alg.toNat ≤ 3 ∧ s.tea.keyLen.toNat = 16) →
    ∃ t, exec .teaKey s = .next t ∧ Completes s t 0x00#8 0#32 ∧ KeepsOperands s t ∧
      t.lk.valid = true ∧ t.lk.alg = s.tea.alg ∧ t.lk.len = s.tea.keyLen ∧
      (∀ i, i < 16 → t.lk.byte i = if i < s.tea.keyLen.toNat then s.tea.keyByte i else 0#8) ∧
      KeepsResults { s with lk := t.lk } t ∧ t.mem = s.mem

/-- 44_tea.md R220: the checks of TEA_DEC, in their order. -/
def Obligations.TeaDecRefusesMissingKeysAndBadLengths : Prop :=
  ∀ s : State,
    (s.lk.valid = false → ∃ t, exec .teaDec s = .next t ∧ FailsWith s t 0x06#8 0#32) ∧
    (s.lk.valid = true → 512 < s.tea.len.toNat → ∃ t, exec .teaDec s = .next t ∧ FailsWith s t 0x08#8 0x0A0#32) ∧
    (s.lk.valid = true → s.tea.len.toNat ≤ 512 → s.tea.len.toNat % 8 ≠ 0 →
      ∃ t, exec .teaDec s = .next t ∧ FailsWith s t 0x04#8 (s.tea.len.setWidth 32))

/-- 44_tea.md R219: TEA_DEC writes each plaintext byte, the decrypted block's byte XOR the feedback of its mode, and the block
count; the other bytes, the IV and the key keep their values. It holds of `exec` with the default transforms, and for
every pair of transforms of key words (00_scope.md R6, log 20). -/
def Obligations.TeaDecWritesEcbOrCbcPlaintext : Prop :=
  decode 0x00000007#32 = .ok .teaDec ∧
  ∀ s : State, s.lk.valid = true → s.tea.len.toNat ≤ 512 → s.tea.len.toNat % 8 = 0 →
    (∃ t, exec .teaDec s = .next t ∧ TeaDecResult (teaBlockDec s.lk) s t) ∧
    ∀ x : TeaTransforms, ∃ t, execWith x .teaDec s = .next t ∧ TeaDecResult (blockDec x s.lk) s t

/-- 44_tea.md R222: TEA_BLK refuses a missing key and a length other than 8, and else decrypts one block, whatever the mode
and the IV. The last holds of `exec` with the default transforms, and for every pair of transforms of key words
(00_scope.md R6, log 20). -/
def Obligations.TeaBlkDecryptsOneBlock : Prop :=
  decode 0x00000008#32 = .ok .teaBlk ∧
  ∀ s : State,
    (s.lk.valid = false → ∃ t, exec .teaBlk s = .next t ∧ FailsWith s t 0x06#8 0#32) ∧
    (s.lk.valid = true → s.tea.len.toNat ≠ 8 →
      ∃ t, exec .teaBlk s = .next t ∧ FailsWith s t 0x05#8 (s.tea.len.setWidth 32)) ∧
    (s.lk.valid = true → s.tea.len.toNat = 8 →
      (∃ t, exec .teaBlk s = .next t ∧ TeaBlkResult (teaBlockDec s.lk) s t) ∧
      ∀ x : TeaTransforms, ∃ t, execWith x .teaBlk s = .next t ∧ TeaBlkResult (blockDec x s.lk) s t)

/-- 44_tea.md R218: TEA2, TEA3 and TEA4 use TEA2_DEC exactly, on the key words of TEA2, and so give the same plaintext for the
same key bytes, whatever TEA2_DEC is; TEA1 uses TEA1_DEC. The key words are those of R214 and R215; that
a transform sees no more of the key is the model's choice (log 20). -/
def Obligations.TeaThreeAndFourAliasTeaTwo : Prop :=
  ∀ (x : TeaTransforms) (k : LatchedKey) (b : List Byte),
    (1 ≤ k.alg.toNat → k.alg.toNat ≤ 3 →
      blockDec x k b = packBlock (x.dec2 (unpackBlock b) (tea2Words k)) ∧
      ∀ a : BitVec 3, 1 ≤ a.toNat → a.toNat ≤ 3 → blockDec x { k with alg := a } b = blockDec x k b) ∧
    (k.alg.toNat = 0 → blockDec x k b = packBlock (x.dec1 (unpackBlock b) (tea1Words k))) ∧
    tea1Words k =
      { k0 := 0#16 ++ k.byte 0 ++ k.byte 1, k1 := 0#16 ++ k.byte 2 ++ k.byte 3
        k2 := 0#16 ++ k.byte 4 ++ k.byte 5, k3 := 0#16 ++ k.byte 6 ++ k.byte 7 } ∧
    tea2Words k =
      { k0 := k.byte 0 ++ k.byte 1 ++ k.byte 2 ++ k.byte 3, k1 := k.byte 4 ++ k.byte 5 ++ k.byte 6 ++ k.byte 7
        k2 := k.byte 8 ++ k.byte 9 ++ k.byte 10 ++ k.byte 11, k3 := k.byte 12 ++ k.byte 13 ++ k.byte 14 ++ k.byte 15 }

/-- 44_tea.md R216, R223 and 95_test_vectors.md section 8: TEA_BLK on the reference encryption of a block returns the
block, for every block and every valid latched key. Rests on the default transforms, which the model takes (log 2). -/
def Obligations.TeaBlkInvertsTheReferenceEncryptor : Prop :=
  ∀ (s : State) (b : List Byte), b.length = 8 → s.lk.valid = true → s.tea.len.toNat = 8 →
    (∀ j, j < 8 → s.mem.cin j = (encWith s.lk b).getD j 0#8) →
    ∃ t, exec .teaBlk s = .next t ∧ t.status.code = 0x00#8 ∧ ∀ j, j < 8 → t.mem.cout j = b.getD j 0#8

/-- 44_tea.md R223: with the default transforms (log 2), two TEA1 keys that agree in bytes 0 to 7 decrypt alike, and a
TEA1 key decrypts like the TEA2 key that pads each of its byte pairs with two zero bytes. -/
def Obligations.TeaOneKeyIsItsFirstEightBytes : Prop :=
  ∀ (k k' : LatchedKey) (b : List Byte), k.alg.toNat = 0 →
    ((k'.alg.toNat = 0 ∧ ∀ i, i < 8 → k'.byte i = k.byte i) ∨
      (1 ≤ k'.alg.toNat ∧ k'.alg.toNat ≤ 3 ∧
        ∀ j, j < 4 → k'.byte (4 * j) = 0#8 ∧ k'.byte (4 * j + 1) = 0#8 ∧ k'.byte (4 * j + 2) = k.byte (2 * j) ∧
          k'.byte (4 * j + 3) = k.byte (2 * j + 1))) →
    teaBlockDec k' b = teaBlockDec k b

/-! ## The bus -/

/-- 20_memory.md R70, 60_exceptions.md R242, 70_reset_and_hazards.md R260: an access that is not 4 bytes wide, not
aligned, outside the window, or made while `rst_n` is low gets a bus error and changes nothing. -/
def Obligations.BusErrorsChangeNothing : Prop :=
  ∀ (s : State) (bytes off : Nat) (v : Word), (bytes ≠ 4 ∨ off % 4 ≠ 0 ∨ 0x8000 ≤ off ∨ s.rstN = false) →
    s.hostAccess (.read bytes off) = { s with response := some .busError } ∧
    s.hostAccess (.write bytes off v) = { s with response := some .busError }

/-- 20_memory.md R76, R85, 10_state.md R22 to R57: a performed read while no command runs answers the current word and changes
nothing else, so that the same read twice answers the same. In any state the current word of a register that is not plain
RW is its fields at their places, STATUS.BUSY being 1 exactly when ENG is Running and TEA_STATE equal to LK, and that of a
buffer offset is the word in the buffer. -/
def Obligations.IdleReadsAnswerTheWordAndChangeNothing : Prop :=
  (∀ (s : State) (off : Nat), s.eng = .idle → s.rstN = true → off % 4 = 0 → off < 0x8000 →
    s.hostAccess (.read 4 off) = { s with response := some (.data (s.readWord off)) } ∧
    ((s.hostAccess (.read 4 off)).hostAccess (.read 4 off)).response = (s.hostAccess (.read 4 off)).response) ∧
  ∀ s : State, ReadsFields s ∧ (∀ r : Reg, s.readWord r.offset = s.readReg r) ∧
    ∀ off, isBuffer off = true → s.readWord off = s.mem.word off

/-- 20_memory.md R73: a RW register stores the bits at their places; its reserved bits read 0. -/
def Obligations.RegisterWritesReadBackMasked : Prop :=
  ∀ (s : State) (r : Reg) (m v : Word), s.eng = .idle → s.rstN = true → rwMask r = some m →
    ((s.hostAccess (.write 4 r.offset v)).hostAccess (.read 4 r.offset)).response = some (.data (v &&& m)) ∧
    ∀ q : Reg, q ≠ r → (s.hostAccess (.write 4 r.offset v)).readReg q = s.readReg q

/-- 20_memory.md R71 to R73: while no command runs, writes to RO registers, to the two buffers the host only reads,
and to reserved offsets are accepted and change nothing; reads of reserved offsets return 0 and change nothing at any
time. -/
def Obligations.IgnoredWritesChangeNothing : Prop :=
  ∀ (s : State) (off : Nat) (v : Word), s.rstN = true → off % 4 = 0 → off < 0x8000 →
    (s.eng = .idle → ((∃ r : Reg, readOnly r = true ∧ off = r.offset) ∨ regionOf off = .syncOut ∨
      regionOf off = .cout ∨ regionOf off = .reserved ∨ (regionOf off = .regs ∧ ∀ r : Reg, off ≠ r.offset)) →
      s.hostAccess (.write 4 off v) = { s with response := some .accepted }) ∧
    (regionOf off = .reserved ∨ (regionOf off = .regs ∧ ∀ r : Reg, off ≠ r.offset) →
      s.hostAccess (.read 4 off) = { s with response := some (.data 0#32) })

/-- 20_memory.md R71, R74: a word written to a buffer the host may write reads back, lane by lane, and no other byte
and no register changes. -/
def Obligations.BufferWritesReadBack : Prop :=
  ∀ (s : State) (off : Nat) (v : Word), s.eng = .idle → s.rstN = true → off % 4 = 0 →
    (regionOf off = .bitbuf ∨ regionOf off = .cin ∨ regionOf off = .symbuf ∨ regionOf off = .samples) →
    ((s.hostAccess (.write 4 off v)).hostAccess (.read 4 off)).response = some (.data v) ∧
    (∀ b, b < 4 → (s.hostAccess (.write 4 off v)).mem.byte (off + b) = v.extractLsb' (8 * b) 8) ∧
    (∀ a, a < off ∨ off + 4 ≤ a → (s.hostAccess (.write 4 off v)).mem.byte a = s.mem.byte a) ∧
    ∀ r : Reg, (s.hostAccess (.write 4 off v)).readReg r = s.readReg r

/-- 20_memory.md R78 to R82: the accessors read a host-written word as the layouts say: a sample's signed halves,
symbols and bits packed most significant first, cipher bytes by lane. The symbol bit view is each symbol's two bits,
MSB first. -/
def Obligations.AccessorsFollowTheLayouts : Prop :=
  ∀ (s : State) (v : Word), s.eng = .idle → s.rstN = true →
    (∀ k, k < 4096 →
      ((s.hostAccess (.write 4 (0x4000 + 4 * k) v)).mem.sample k).re = (v.extractLsb' 0 16).toInt ∧
      ((s.hostAccess (.write 4 (0x4000 + 4 * k) v)).mem.sample k).im = (v.extractLsb' 16 16).toInt) ∧
    (∀ k, k < 4096 →
      ((s.hostAccess (.write 4 (0x0800 + 4 * (k / 16)) v)).mem.sym k).getLsbD 1 = v.getLsbD (31 - 2 * (k % 16)) ∧
      ((s.hostAccess (.write 4 (0x0800 + 4 * (k / 16)) v)).mem.sym k).getLsbD 0 = v.getLsbD (30 - 2 * (k % 16))) ∧
    (∀ j, j < 8192 → (s.hostAccess (.write 4 (0x0800 + 4 * (j / 32)) v)).mem.sbit j = v.getLsbD (31 - j % 32)) ∧
    (∀ j, j < 1024 → (s.hostAccess (.write 4 (0x0200 + 4 * (j / 32)) v)).mem.bbit j = v.getLsbD (31 - j % 32)) ∧
    (∀ i, i < 512 → (s.hostAccess (.write 4 (0x0400 + 4 * (i / 4)) v)).mem.cin i = v.extractLsb' (8 * (i % 4)) 8) ∧
    (∀ k, s.mem.sbit (2 * k) = (s.mem.sym k).getLsbD 1 ∧ s.mem.sbit (2 * k + 1) = (s.mem.sym k).getLsbD 0)

/-- 40_command.md R125: while a command runs, a performed write to any other offset than STATUS, IRQ_EN, IRQ_STATUS and CTRL is
dropped: it changes nothing but STATUS.WBUSY. A write to one of those four takes effect whether a command runs or not: it
clears WBUSY or the interrupt flags where the bit is 1, which is the acknowledgement (60_exceptions.md R248), sets the
enables, or resets. -/
def Obligations.BusyWritesAreDropped : Prop :=
  ∀ (s : State) (off : Nat) (v : Word), s.rstN = true → off % 4 = 0 → off < 0x8000 →
    (∀ d, s.eng = .running d → off ≠ 0x008 → off ≠ 0x00C → off ≠ 0x010 → off ≠ 0x014 →
      s.hostAccess (.write 4 off v) =
        { s with status := { s.status with wbusy := true }, response := some .accepted }) ∧
    (off = 0x008 → s.hostAccess (.write 4 off v) =
        { s with status := { s.status with wbusy := s.status.wbusy && !v.getLsbD 24 }, response := some .accepted }) ∧
    (off = 0x00C → s.hostAccess (.write 4 off v) =
        { s with irq := { s.irq with doneEn := v.getLsbD 0, errEn := v.getLsbD 1 }, response := some .accepted }) ∧
    (off = 0x010 → s.hostAccess (.write 4 off v) =
        { s with irq := { s.irq with done := s.irq.done && !v.getLsbD 0, err := s.irq.err && !v.getLsbD 1 },
                 response := some .accepted }) ∧
    (off = 0x014 → v.getLsbD 0 = true →
      s.hostAccess (.write 4 off v) = { s.softReset with response := some .accepted }) ∧
    (off = 0x014 → v.getLsbD 0 = false → s.hostAccess (.write 4 off v) = { s with response := some .accepted })

/-- 40_command.md R126: a read while a command runs changes nothing, and answers the current value in every bit that the
command's rule does not list as an output; while the illegal command runs, in every bit. Which buffer words count where a
command's check fails is the model's choice (log 7). -/
def Obligations.BusyReadsAreExactOutsideOutputs : Prop :=
  ∀ (s : State) (d off : Nat), s.eng = .running d → s.rstN = true → off % 4 = 0 → off < 0x8000 →
    ∃ w n, s.hostAccess (.read 4 off) = { s with response := some (.data w), draws := n } ∧
      (∀ i t, decode s.cmd = .ok i → exec i s = .next t →
        w &&& ~~~(listedOutputs s t i off) = s.readWord off &&& ~~~(listedOutputs s t i off)) ∧
      ∀ e, decode s.cmd = .error e → w = s.readWord off

/-- 40_command.md R129, 10_state.md R59: a soft reset sets every register to its reset value, clears LK and returns
ENG to Idle; while no command runs it keeps every buffer word. The reset values of SYNC_TS1 and SYNC_TS2 are the
model's choice (log 1). -/
def Obligations.SoftResetRestoresTheRegisters : Prop :=
  ∀ (s : State) (v : Word), s.rstN = true → v.getLsbD 0 = true →
    (∀ r : Reg, (s.hostAccess (.write 4 0x014 v)).readReg r = resetValue r) ∧
    (s.hostAccess (.write 4 0x014 v)).lk = LatchedKey.cleared ∧
    (s.hostAccess (.write 4 0x014 v)).eng = .idle ∧
    (s.hostAccess (.write 4 0x014 v)).irqLine = false ∧
    (s.eng = .idle → (s.hostAccess (.write 4 0x014 v)).mem = s.mem)

/-- 40_command.md R129, 70_reset_and_hazards.md R268: a soft reset that abandons a command keeps every byte of every buffer
word that the command's rule does not list as an output, and all buffers when the illegal command is abandoned. Which words
count where a command's check fails is the model's choice (log 7). -/
def Obligations.SoftResetKeepsTheOtherBuffers : Prop :=
  ∀ (s : State) (v : Word), s.rstN = true → v.getLsbD 0 = true →
    (∀ (i : Instr) (t : State) (a : Nat), decode s.cmd = .ok i → exec i s = .next t →
      (a < (listedWords s t i).1 ∨ (listedWords s t i).1 + 4 * (listedWords s t i).2 ≤ a) →
      (s.hostAccess (.write 4 0x014 v)).mem.byte a = s.mem.byte a) ∧
    ∀ e, decode s.cmd = .error e → (s.hostAccess (.write 4 0x014 v)).mem = s.mem

/-- 70_reset_and_hazards.md R260: when `rst_n` has been low and is released, every register is at its reset value, LK
is cleared, ENG is Idle and `irq` is 0, whatever the state before. The reset values of SYNC_TS1 and SYNC_TS2 are the
model's choice (log 1). -/
def Obligations.HardwareResetRestoresTheRegisters : Prop :=
  ∀ s : State,
    (∀ r : Reg, (s.hardReset.releaseReset).readReg r = resetValue r) ∧
    (s.hardReset.releaseReset).lk = LatchedKey.cleared ∧ (s.hardReset.releaseReset).eng = .idle ∧
    (s.hardReset.releaseReset).irqLine = false ∧ (s.hardReset.releaseReset).rstN = true ∧ s.hardReset.rstN = false

/-- 10_state.md R59: the reset column, read from the reset state. The values of SYNC_TS1 and SYNC_TS2 are the model's
choice (log 1). -/
def Obligations.ResetStateReadsTheResetColumn : Prop :=
  ∀ r : Reg, State.reset.readReg r = resetValue r

/-! ## Interrupts and the latched key -/

/-- 60_exceptions.md R244: `irq` is 1 exactly when DONE is set and enabled, or ERR is set and enabled. -/
def Obligations.IrqIsTheEnabledFlags : Prop :=
  ∀ s : State, s.irqLine = true ↔ (s.irq.done = true ∧ s.irq.doneEn = true) ∨ (s.irq.err = true ∧ s.irq.errEn = true)

/-- 60_exceptions.md R243: every completion sets IRQ_STATUS.DONE, and IRQ_STATUS.ERR when its code is 0x02 or above;
no other step sets an interrupt flag: no dropped write, no bus error and no start of a command. That a completion with
NO_RESULT sets DONE too is the model's reading of that rule (log 19). -/
def Obligations.OnlyCompletionsSetInterruptFlags : Prop :=
  ∀ s t : State, step s = .next t →
    (s.eng = .running 0 → s.rstN = true →
      t.irq.done = true ∧ t.irq.err = (s.irq.err || decide (2 ≤ t.status.code.toNat))) ∧
    (¬(s.eng = .running 0 ∧ s.rstN = true) →
      (t.irq.done = true → s.irq.done = true) ∧ (t.irq.err = true → s.irq.err = true))

/-- 60_exceptions.md R245: a flag that is set stays set until a write of 1 to its bit of IRQ_STATUS or a reset; the
start of a command clears none. -/
def Obligations.InterruptFlagsStayUntilClearedOrReset : Prop :=
  ∀ s t : State, step s = .next t →
    (s.irq.done = true → t.irq.done = false →
      ∃ x rest, s.inputs = x :: rest ∧
        (x = .assertReset ∨ (∃ v : Word, x = .access (.write 4 0x010 v) ∧ v.getLsbD 0 = true) ∨
          ∃ v : Word, x = .access (.write 4 0x014 v) ∧ v.getLsbD 0 = true)) ∧
    (s.irq.err = true → t.irq.err = false →
      ∃ x rest, s.inputs = x :: rest ∧
        (x = .assertReset ∨ (∃ v : Word, x = .access (.write 4 0x010 v) ∧ v.getLsbD 1 = true) ∨
          ∃ v : Word, x = .access (.write 4 0x014 v) ∧ v.getLsbD 0 = true))

/-- 60_exceptions.md R246: an acknowledgement and a completion of the same clock cycle leave DONE set, and ERR too on a code of
0x02 or above, and a soft reset of the same cycle as a completion wins; the model takes the access first (log 8). -/
def Obligations.SimultaneousEventsResolveAsTheRuleSays : Prop :=
  ∀ (s : State) (x : Input) (rest : List Input) (v : Word), s.rstN = true → s.eng = .running 1 → s.inputs = x :: rest →
    (x = .access (.write 4 0x010 v) →
      ∃ t, steps 2 s = some t ∧ t.eng = .idle ∧ t.irq.done = true ∧
        (2 ≤ t.status.code.toNat → t.irq.err = true)) ∧
    (x = .access (.write 4 0x014 v) → v.getLsbD 0 = true →
      ∃ t, steps 1 s = some t ∧ t.eng = .idle ∧ t.status.done = false ∧ t.irq.done = false)

/-- 10_state.md R56: LK changes only by a TEA_KEY that completes OK, or by a hardware or soft reset, which clears it. -/
def Obligations.OnlyTeaKeyAndResetsChangeTheLatchedKey : Prop :=
  ∀ s t : State, step s = .next t → t.lk ≠ s.lk →
    (s.rstN = true ∧ s.eng = .running 0 ∧ decode s.cmd = .ok .teaKey ∧ t.status.code = 0x00#8) ∨
    (t.lk = LatchedKey.cleared ∧ ∃ x rest, s.inputs = x :: rest ∧
      (x = .assertReset ∨
        (s.rstN = true ∧ ∃ v : Word, x = .access (.write 4 0x014 v) ∧ v.getLsbD 0 = true)))

/-- 10_state.md R56: LK.bytes is never readable: neither a read's answer nor anything else that a read does depends on
it. -/
def Obligations.LatchedKeyBytesAreNotReadable : Prop :=
  ∀ (s : State) (b : Vector Byte 16) (bytes off : Nat),
    ({ s with lk := { s.lk with bytes := b } } : State).hostAccess (.read bytes off) =
      { s.hostAccess (.read bytes off) with lk := { s.lk with bytes := b } }

/-! ## The invariant -/

/-- Every step keeps the invariant, from every state that has it. Its clause on draws is about the model's own fields (log 5,
log 16). -/
def Obligations.EveryStepKeepsTheInvariant : Prop := ∀ s t : State, s.Inv → step s = .next t → t.Inv

/-- The reset state has the invariant. Its clause on draws rests on the reset values of the model's own fields (log 16), and
not on a rule of the spec. -/
def Obligations.ResetStateHasTheInvariant : Prop := State.reset.Inv
end

