-- ==== Sys2Proof/Laws/Bits.lean ====
section
/-! SUPPORT. Bit sequences, counts and blocks: lengths, bounds and values. -/

namespace Sys2Proof.Machine

/-! ## Sequences -/

theorem length_slice (s : List Bool) (a b : Nat) : (slice s a b).length = min (b - a) (s.length - a) := by
  simp [slice]

theorem getD_slice (s : List Bool) (a b t : Nat) (h : t < b - a) : (slice s a b).getD t false = s.getD (a + t) false := by
  simp only [slice, List.getD_eq_getElem?_getD, List.getElem?_take, h, if_true, List.getElem?_drop]

@[simp] theorem length_patternBits (ts : BitVec 22) : (patternBits ts).length = 22 := by simp [patternBits]

@[simp] theorem Memory.length_sbits (m : Memory) (a n : Nat) : (m.sbits a n).length = n := by simp [Memory.sbits]

@[simp] theorem Memory.length_bbits (m : Memory) (n : Nat) : (m.bbits n).length = n := by simp [Memory.bbits]

@[simp] theorem Memory.length_samples (m : Memory) (n : Nat) : (m.samples n).length = n := by simp [Memory.samples]

@[simp] theorem Memory.length_cinBlock (m : Memory) (i : Nat) : (m.cinBlock i).length = 8 := by simp [Memory.cinBlock]

@[simp] theorem TeaRegs.length_ivBytes (r : TeaRegs) : r.ivBytes.length = 8 := by simp [TeaRegs.ivBytes]

theorem Memory.getD_sbits (m : Memory) (a n t : Nat) (h : t < n) : (m.sbits a n).getD t false = m.sbit (a + t) := by
  simp [Memory.sbits, List.getD_eq_getElem?_getD, h]

/-! ## Counts -/

theorem matchCount_le_right (s t : List Bool) : matchCount s t ≤ t.length := by
  induction s generalizing t with
  | nil => simp [matchCount]
  | cons x s ih =>
    cases t with
    | nil => simp [matchCount]
    | cons y t =>
      have := ih t
      simp only [matchCount, List.length_cons]
      split <;> omega

theorem windowCount_le (ts1 ts2 : BitVec 22) (w : List Bool) :
    windowCount (patternBits ts1) (patternBits ts2) w ≤ 22 := by
  have h1 := matchCount_le_right w (patternBits ts1)
  have h2 := matchCount_le_right w (patternBits ts2)
  rw [length_patternBits] at h1 h2
  exact Nat.max_le.2 ⟨h1, h2⟩

theorem popcount16_le (v : BitVec 16) : popcount16 v ≤ 16 := by
  have := List.countP_le_length (p := fun i => v.getLsbD i) (l := List.range 16)
  simpa [popcount16] using this

/-! ## Values -/

theorem bitsVal_append_one (s : List Bool) (b : Bool) : bitsVal (s ++ [b]) = 2 * bitsVal s + b.toNat := by
  simp [bitsVal, List.foldl_append]

theorem bitsVal_lt (s : List Bool) : bitsVal s < 2 ^ s.length := by
  induction s using List.reverseRecOn with
  | nil => simp [bitsVal]
  | append_singleton s b ih =>
    rw [bitsVal_append_one, List.length_append, List.length_singleton, Nat.pow_succ]
    have := b.toNat_le
    omega

theorem bitsVal_append (s t : List Bool) : bitsVal (s ++ t) = bitsVal s * 2 ^ t.length + bitsVal t := by
  induction t using List.reverseRecOn with
  | nil => simp [bitsVal]
  | append_singleton t b ih =>
    rw [← List.append_assoc, bitsVal_append_one, ih, bitsVal_append_one, List.length_append, List.length_singleton,
      Nat.pow_succ]
    ring

@[simp] theorem length_natBits (n v : Nat) : (natBits n v).length = n := by
  induction n with
  | zero => rfl
  | succ n ih => simp [natBits, ih]

theorem bitsVal_natBits (n v : Nat) : bitsVal (natBits n v) = v % 2 ^ n := by
  induction n with
  | zero => simp [natBits, bitsVal, Nat.mod_one]
  | succ n ih =>
    rw [natBits, show (v.testBit n :: natBits n v) = [v.testBit n] ++ natBits n v from rfl, bitsVal_append, ih,
      length_natBits, Nat.mod_pow_succ]
    simp only [bitsVal, List.foldl_cons, List.foldl_nil, Nat.mul_zero, Nat.zero_add, Nat.testBit_eq_decide_div_mod_eq]
    have : v / 2 ^ n % 2 < 2 := Nat.mod_lt _ (by omega)
    have h2 : v / 2 ^ n % 2 = 0 ∨ v / 2 ^ n % 2 = 1 := by omega
    rcases h2 with h | h <;> simp [h, Nat.add_comm]

/-- What the tolerant check reports (43_burst_crc.md R181). -/
theorem crcCheck_spec (maxHd : Nat) (d : List Bool) :
    (crcCheck maxHd d).cn = crc16 (slice d 0 (d.length - 16)) ∧
    (crcCheck maxHd d).cr = crc16 (slice d 0 (d.length - 16)).reverse ∧
    (crcCheck maxHd d).rx = BitVec.ofNat 16 (bitsVal (slice d (d.length - 16) d.length)) ∧
    (crcCheck maxHd d).hn = popcount16 ((crcCheck maxHd d).cn ^^^ (crcCheck maxHd d).rx) ∧
    (crcCheck maxHd d).hr = popcount16 ((crcCheck maxHd d).cr ^^^ (crcCheck maxHd d).rx) ∧
    ((crcCheck maxHd d).ok = true ↔ (crcCheck maxHd d).hn ≤ maxHd ∨ (crcCheck maxHd d).hr ≤ maxHd) ∧
    ((crcCheck maxHd d).order = true ↔ maxHd < (crcCheck maxHd d).hn ∧ (crcCheck maxHd d).hr ≤ maxHd) := by
  simp only [crcCheck]
  split
  · simp_all
  · split <;> simp_all

/-! ## Keys -/

/-- Every latched byte of a new key (44_tea.md R211). -/
theorem State.newKey_byte (s : State) (i : Nat) (h : i < 16) : s.newKey.byte i = s.latchByte i := by
  interval_cases i <;> rfl

/-! ## Blocks -/

@[simp] theorem length_beBytes (w : Word) : (beBytes w).length = 4 := rfl

@[simp] theorem length_packBlock (h : Halves) : (packBlock h).length = 8 := rfl

@[simp] theorem length_blockDec (x : TeaTransforms) (k : LatchedKey) (b : List Byte) : (blockDec x k b).length = 8 := rfl

@[simp] theorem length_teaBlockDec (k : LatchedKey) (b : List Byte) : (teaBlockDec k b).length = 8 := rfl

theorem length_xorBytes (a b : List Byte) : (xorBytes a b).length = min a.length b.length := by simp [xorBytes]

theorem getD_xorBytes (a b : List Byte) (j : Nat) (ha : j < a.length) (hb : j < b.length) :
    (xorBytes a b).getD j 0#8 = a.getD j 0#8 ^^^ b.getD j 0#8 := by
  simp [xorBytes, List.getD_eq_getElem?_getD, ha, hb]

/-- Every plaintext block has 8 bytes. -/
theorem length_mem_cbcDec {D : List Byte → List Byte} (hD : ∀ b, (D b).length = 8) (cs : List (List Byte)) :
    ∀ (prev : List Byte), prev.length = 8 → (∀ c ∈ cs, c.length = 8) → ∀ p ∈ cbcDec D prev cs, p.length = 8 := by
  induction cs with
  | nil => intro _ _ _ p hp; simp [cbcDec] at hp
  | cons c cs ih =>
    intro prev hprev hcs p hp
    rcases List.mem_cons.1 hp with rfl | hp
    · rw [length_xorBytes, hD, hprev]; rfl
    · exact ih c (hcs c (List.mem_cons_self ..)) (fun d hd => hcs d (List.mem_cons_of_mem _ hd)) p hp

theorem length_cbcDec (D : List Byte → List Byte) (cs : List (List Byte)) (prev : List Byte) :
    (cbcDec D prev cs).length = cs.length := by
  induction cs generalizing prev with
  | nil => rfl
  | cons c cs ih => simp [cbcDec, ih]

theorem getD_cbcDec (D : List Byte → List Byte) (cs : List (List Byte)) (prev : List Byte) (i : Nat)
    (hi : i < cs.length) :
    (cbcDec D prev cs).getD i [] = xorBytes (D (cs.getD i [])) (if i = 0 then prev else cs.getD (i - 1) []) := by
  induction cs generalizing prev i with
  | nil => simp at hi
  | cons c cs ih =>
    cases i with
    | zero => simp [cbcDec]
    | succ i =>
      have := ih c i (by simpa using hi)
      cases i with
      | zero => simpa [cbcDec] using this
      | succ i => simpa [cbcDec] using this

/-- The bytes of blocks of 8 laid end to end. -/
theorem getD_flatten_blocks (ps : List (List Byte)) (h : ∀ p ∈ ps, p.length = 8) (i j : Nat) (hi : i < ps.length)
    (hj : j < 8) : ps.flatten.getD (8 * i + j) 0#8 = (ps.getD i []).getD j 0#8 := by
  induction ps generalizing i with
  | nil => simp at hi
  | cons p ps ih =>
    have hp := h p (List.mem_cons_self ..)
    rw [List.flatten_cons]
    cases i with
    | zero => simp [List.getD_eq_getElem?_getD, List.getElem?_append_left, hp, hj]
    | succ i =>
      have := ih (fun q hq => h q (List.mem_cons_of_mem _ hq)) i (by simpa using hi)
      rw [List.getD_eq_getElem?_getD, List.getElem?_append_right (by omega), hp,
        show 8 * (i + 1) + j - 8 = 8 * i + j by omega, ← List.getD_eq_getElem?_getD, this]
      simp

theorem length_flatten_blocks (ps : List (List Byte)) (h : ∀ p ∈ ps, p.length = 8) :
    ps.flatten.length = 8 * ps.length := by
  induction ps with
  | nil => rfl
  | cons p ps ih =>
    rw [List.flatten_cons, List.length_append, h p (List.mem_cons_self ..),
      ih fun q hq => h q (List.mem_cons_of_mem _ hq), List.length_cons]
    omega

theorem State.length_teaPlain (s : State) (x : TeaTransforms) : (s.teaPlain x).length = s.teaBlocks := by
  simp only [State.teaPlain, chainDec]
  split <;> simp [length_cbcDec]

theorem State.length_mem_teaPlain (s : State) (x : TeaTransforms) : ∀ p ∈ s.teaPlain x, p.length = 8 := by
  intro p hp
  simp only [State.teaPlain, chainDec] at hp
  split at hp
  · refine length_mem_cbcDec (length_blockDec x s.lk) _ _ (TeaRegs.length_ivBytes _) ?_ p hp
    simp
  · obtain ⟨c, _, rfl⟩ := List.mem_map.1 hp
    exact length_blockDec _ _ _

/-- The plaintext of a TEA_DEC has 8 bytes for each block. -/
theorem State.length_teaPlain_flatten (s : State) (x : TeaTransforms) :
    (s.teaPlain x).flatten.length = 8 * s.teaBlocks := by
  rw [length_flatten_blocks _ (s.length_mem_teaPlain x), s.length_teaPlain]

end Sys2Proof.Machine
end

