-- ==== Sys2Proof/Laws/Memory.lean ====
section
/-! SUPPORT. The buffers: what a read gives after a write, and that every write keeps the canonical form. -/

namespace Sys2Proof.Machine

/-! ## Cells -/

theorem cellsGet_cellsSet (m : List Host.Cell) (a c : Nat) (b : Byte) :
    cellsGet (cellsSet m a b) c = if c = a then some b else cellsGet m c := by
  induction m with
  | nil => simp [cellsSet, cellsGet]
  | cons x m ih =>
    obtain ⟨x, v⟩ := x
    simp only [cellsSet]
    split
    · simp [cellsGet]
    · split
      · subst_vars
        simp only [cellsGet]
        split <;> simp_all
      · simp only [cellsGet, ih]
        split <;> split <;> simp_all

theorem mem_cellsSet {m : List Host.Cell} {a : Nat} {b : Byte} {c : Host.Cell} (h : c ∈ cellsSet m a b) :
    c = (a, b) ∨ c ∈ m := by
  induction m with
  | nil => simpa [cellsSet] using h
  | cons x m ih =>
    obtain ⟨x, v⟩ := x
    simp only [cellsSet] at h
    split at h
    · simpa using h
    · split at h
      · rcases List.mem_cons.1 h with h | h
        · exact .inl h
        · exact .inr (List.mem_cons_of_mem _ h)
      · rcases List.mem_cons.1 h with h | h
        · exact .inr (by simp [h])
        · exact (ih h).imp id (List.mem_cons_of_mem _)

theorem cellsRising_iff (m : List Host.Cell) : cellsRising m = true ↔ m.Pairwise fun x y => x.1 < y.1 := by
  induction m with
  | nil => simp [cellsRising]
  | cons x m ih =>
    cases m with
    | nil => simp [cellsRising]
    | cons y m =>
      obtain ⟨x, u⟩ := x
      obtain ⟨y, v⟩ := y
      simp only [cellsRising, Bool.and_eq_true, decide_eq_true_eq, ih]
      rw [List.pairwise_cons (a := (x, u))]
      constructor
      · rintro ⟨hxy, h⟩
        refine ⟨fun c hc => ?_, h⟩
        rcases List.mem_cons.1 hc with rfl | hc
        · exact hxy
        · exact Nat.lt_trans hxy ((List.pairwise_cons.1 h).1 c hc)
      · rintro ⟨h, hp⟩
        exact ⟨h _ (List.mem_cons_self ..), hp⟩

theorem cellsRising_cellsSet {m : List Host.Cell} (h : cellsRising m = true) (a : Nat) (b : Byte) :
    cellsRising (cellsSet m a b) = true := by
  rw [cellsRising_iff] at h ⊢
  induction m with
  | nil => simp [cellsSet]
  | cons x m ih =>
    obtain ⟨x, v⟩ := x
    obtain ⟨hx, hm⟩ := List.pairwise_cons.1 h
    simp only [cellsSet]
    split
    · rename_i hax
      refine List.pairwise_cons.2 ⟨fun c hc => ?_, h⟩
      rcases List.mem_cons.1 hc with rfl | hc
      · exact hax
      · exact Nat.lt_trans hax (hx c hc)
    · split
      · subst_vars
        exact List.pairwise_cons.2 ⟨hx, hm⟩
      · refine List.pairwise_cons.2 ⟨fun c hc => ?_, ih hm⟩
        rcases mem_cellsSet hc with rfl | hc
        · simp only
          omega
        · exact hx c hc

/-! ## Bytes -/

@[simp] theorem Memory.setByte_draw (m : Memory) (a : Nat) (b : Byte) : (m.setByte a b).draw = m.draw := rfl

theorem Memory.byte_setByte (m : Memory) (a c : Nat) (b : Byte) :
    (m.setByte a b).byte c = if c = a then b else m.byte c := by
  simp only [Memory.byte, Memory.setByte, Memory.unlisted, cellsGet_cellsSet]
  split <;> simp

/-- What every write of the buffers keeps: a property of memories that one written byte keeps. -/
structure Memory.Stable (ok : Nat → Prop) (P : Memory → Prop) : Prop where
  setByte : ∀ m a b, ok a → P m → P (m.setByte a b)

theorem Memory.Stable.wf (ok : Nat → Prop) : Memory.Stable ok fun m => m.wf = true :=
  ⟨fun _ a b _ h => cellsRising_cellsSet h a b⟩

theorem Memory.Stable.inside (ok : Nat → Prop) : Memory.Stable ok fun m => ∀ c ∈ m.cells, ok c.1 :=
  ⟨fun _ _ _ ha h c hc => (mem_cellsSet hc).elim (fun e => e ▸ ha) (h c)⟩

theorem Memory.Stable.draw (ok : Nat → Prop) (d : Nat) : Memory.Stable ok fun m => m.draw = d :=
  ⟨fun _ _ _ _ h => h⟩

theorem Memory.Stable.setWord {ok : Nat → Prop} {P : Memory → Prop} (st : Memory.Stable ok P) {m : Memory} {a : Nat}
    (w : Word) (ha : ∀ c, a ≤ c → c < a + 4 → ok c) (h : P m) : P (m.setWord a w) :=
  st.setByte _ _ _ (ha _ (by omega) (by omega)) <| st.setByte _ _ _ (ha _ (by omega) (by omega)) <|
    st.setByte _ _ _ (ha _ (by omega) (by omega)) <| st.setByte _ _ _ (ha _ (by omega) (by omega)) h

theorem Memory.Stable.setBytes {ok : Nat → Prop} {P : Memory → Prop} (st : Memory.Stable ok P) (bs : List Byte) :
    ∀ {m : Memory} {a : Nat}, (∀ c, a ≤ c → c < a + bs.length → ok c) → P m → P (m.setBytes a bs) := by
  induction bs with
  | nil => exact fun _ h => h
  | cons b bs ih =>
    intro m a ha h
    refine ih (fun c h1 h2 => ha c (by omega) (by simp only [List.length_cons]; omega)) ?_
    exact st.setByte _ _ _ (ha _ (by omega) (by simp)) h

theorem Memory.Stable.setWords {ok : Nat → Prop} {P : Memory → Prop} (st : Memory.Stable ok P) (ws : List Word) :
    ∀ {m : Memory} {a : Nat}, (∀ c, a ≤ c → c < a + 4 * ws.length → ok c) → P m → P (m.setWords a ws) := by
  induction ws with
  | nil => exact fun _ h => h
  | cons w ws ih =>
    intro m a ha h
    refine ih (fun c h1 h2 => ha c (by omega) (by simp only [List.length_cons]; omega)) ?_
    exact st.setWord w (fun c h1 h2 => ha c h1 (by simp only [List.length_cons]; omega)) h

theorem Memory.Stable.setBit {ok : Nat → Prop} {P : Memory → Prop} (st : Memory.Stable ok P) {m : Memory} {base j : Nat}
    (b : Bool) (ha : ∀ c, bitWordAt base j ≤ c → c < bitWordAt base j + 4 → ok c) (h : P m) : P (m.setBit base j b) :=
  st.setWord _ ha h

theorem Memory.Stable.setBits {ok : Nat → Prop} {P : Memory → Prop} (st : Memory.Stable ok P) (bs : List Bool) :
    ∀ {m : Memory} {base j : Nat},
      (∀ k, j ≤ k → k < j + bs.length → ∀ c, bitWordAt base k ≤ c → c < bitWordAt base k + 4 → ok c) →
      P m → P (m.setBits base j bs) := by
  induction bs with
  | nil => exact fun _ h => h
  | cons b bs ih =>
    intro m base j ha h
    refine ih (fun k h1 h2 => ha k (by omega) (by simp only [List.length_cons]; omega)) ?_
    exact st.setBit b (ha j (by omega) (by simp)) h

/-! ## The canonical form -/

theorem Memory.wf_setByte {m : Memory} (h : m.wf = true) (a : Nat) (b : Byte) : (m.setByte a b).wf = true :=
  cellsRising_cellsSet h a b

theorem Memory.wf_setWord {m : Memory} (h : m.wf = true) (a : Nat) (w : Word) : (m.setWord a w).wf = true :=
  (Memory.Stable.wf fun _ => True).setWord w (fun _ _ _ => trivial) h

theorem Memory.wf_setBytes {m : Memory} (h : m.wf = true) (a : Nat) (bs : List Byte) : (m.setBytes a bs).wf = true :=
  (Memory.Stable.wf fun _ => True).setBytes bs (fun _ _ _ => trivial) h

theorem Memory.wf_setWords {m : Memory} (h : m.wf = true) (a : Nat) (ws : List Word) : (m.setWords a ws).wf = true :=
  (Memory.Stable.wf fun _ => True).setWords ws (fun _ _ _ => trivial) h

theorem Memory.wf_setBit {m : Memory} (h : m.wf = true) (base j : Nat) (b : Bool) : (m.setBit base j b).wf = true :=
  (Memory.Stable.wf fun _ => True).setBit b (fun _ _ _ => trivial) h

theorem Memory.wf_setBits {m : Memory} (h : m.wf = true) (base j : Nat) (bs : List Bool) :
    (m.setBits base j bs).wf = true :=
  (Memory.Stable.wf fun _ => True).setBits bs (fun _ _ _ _ _ _ => trivial) h

theorem Memory.wf_setSyms {m : Memory} (h : m.wf = true) (k : Nat) (qs : List (BitVec 2)) : (m.setSyms k qs).wf = true :=
  Memory.wf_setBits h _ _ _

theorem State.reset_mem_wf : State.reset.mem.wf = true := rfl

/-! ## Words -/

theorem Memory.byte_setWord (m : Memory) (a c : Nat) (w : Word) :
    (m.setWord a w).byte c = if a ≤ c ∧ c < a + 4 then wordByte w (c - a) else m.byte c := by
  simp only [Memory.setWord, Memory.byte_setByte]
  by_cases h3 : c = a + 3
  · subst h3; simp
  by_cases h2 : c = a + 2
  · subst h2; simp
  by_cases h1 : c = a + 1
  · subst h1; simp
  by_cases h0 : c = a
  · subst h0; simp
  rw [if_neg h3, if_neg h2, if_neg h1, if_neg h0, if_neg (by omega)]

/-- Four lanes of a word make the word (20_memory.md R74). -/
theorem wordByte_join (w : Word) : wordByte w 3 ++ wordByte w 2 ++ wordByte w 1 ++ wordByte w 0 = w := by
  ext i hi
  simp only [wordByte, BitVec.getElem_append, BitVec.getElem_extractLsb']
  split
  · simp [BitVec.getLsbD_eq_getElem hi]
  · split
    · rw [show 8 * 1 + (i - 8) = i by omega]; simp [BitVec.getLsbD_eq_getElem hi]
    · split
      · rw [show 8 * 2 + (i - 8 - 8) = i by omega]; simp [BitVec.getLsbD_eq_getElem hi]
      · rw [show 8 * 3 + (i - 8 - 8 - 8) = i by omega]; simp [BitVec.getLsbD_eq_getElem hi]

theorem Memory.word_setWord_same (m : Memory) (a : Nat) (w : Word) : (m.setWord a w).word a = w := by
  simp only [Memory.word, Memory.byte_setWord]
  rw [if_pos (by omega), if_pos (by omega), if_pos (by omega), if_pos (by omega)]
  simpa using wordByte_join w

theorem Memory.word_setWord_ne (m : Memory) {a c : Nat} (w : Word) (h : c + 4 ≤ a ∨ a + 4 ≤ c) :
    (m.setWord a w).word c = m.word c := by
  simp only [Memory.word, Memory.byte_setWord]
  rw [if_neg (by omega), if_neg (by omega), if_neg (by omega), if_neg (by omega)]

/-- A word reads the same in two memories that agree on its four bytes. -/
theorem Memory.word_congr {m n : Memory} {a : Nat} (h : ∀ c, a ≤ c → c < a + 4 → m.byte c = n.byte c) :
    m.word a = n.word a := by
  simp only [Memory.word]
  rw [h a (by omega) (by omega), h (a + 1) (by omega) (by omega), h (a + 2) (by omega) (by omega),
    h (a + 3) (by omega) (by omega)]

theorem Memory.byte_setBytes (bs : List Byte) (m : Memory) (a c : Nat) :
    (m.setBytes a bs).byte c = if a ≤ c ∧ c < a + bs.length then bs.getD (c - a) 0#8 else m.byte c := by
  induction bs generalizing m a with
  | nil => rw [if_neg (by simp)]; rfl
  | cons b bs ih =>
    simp only [Memory.setBytes, ih, Memory.byte_setByte, List.length_cons]
    by_cases h0 : c = a
    · subst h0; simp
    · by_cases h : a ≤ c ∧ c < a + (bs.length + 1)
      · rw [if_pos (by omega), if_pos h, show c - a = (c - (a + 1)) + 1 by omega]; simp
      · rw [if_neg (by omega), if_neg h0, if_neg h]

theorem Memory.byte_setWords_outside (ws : List Word) (m : Memory) (a c : Nat) (h : c < a ∨ a + 4 * ws.length ≤ c) :
    (m.setWords a ws).byte c = m.byte c := by
  induction ws generalizing m a with
  | nil => rfl
  | cons w ws ih =>
    simp only [List.length_cons] at h
    rw [Memory.setWords, ih _ _ (by omega), Memory.byte_setWord, if_neg (by omega)]

theorem Memory.word_setWords (ws : List Word) (m : Memory) (a e : Nat) (he : e < ws.length) :
    (m.setWords a ws).word (a + 4 * e) = ws.getD e 0#32 := by
  induction ws generalizing m a e with
  | nil => simp at he
  | cons w ws ih =>
    cases e with
    | zero =>
      rw [Memory.setWords, Memory.word_congr (n := m.setWord a w)]
      · simpa using Memory.word_setWord_same m a w
      · intro c h1 h2
        exact Memory.byte_setWords_outside _ _ _ _ (by omega)
    | succ e =>
      have := ih (m.setWord a w) (a + 4) e (by simpa using he)
      rw [Memory.setWords, show a + 4 * (e + 1) = a + 4 + 4 * e by omega, this]
      simp

/-! ## Bits -/

theorem getLsbD_setWordBit (w : Word) (i k : Nat) (b : Bool) (hi : i < 32) :
    (setWordBit w i b).getLsbD k = if k = i then b else w.getLsbD k := by
  by_cases hk : k < 32
  · cases b
    · simp only [setWordBit, Bool.false_eq_true, if_false, BitVec.getLsbD_and, BitVec.getLsbD_not, hk,
        BitVec.getLsbD_twoPow, decide_true, Bool.true_and]
      by_cases h : k = i
      · simp [h, hi]
      · simp [h, hi, show ¬i = k from fun e => h e.symm]
    · simp only [setWordBit, if_true, BitVec.getLsbD_or, BitVec.getLsbD_twoPow]
      by_cases h : k = i
      · simp [h, hi]
      · simp [h, hi, show ¬i = k from fun e => h e.symm]
  · have : k ≠ i := by omega
    rw [if_neg this, BitVec.getLsbD_of_ge _ _ (by omega), BitVec.getLsbD_of_ge _ _ (by omega)]

theorem Memory.bit_setBit (m : Memory) (base j k : Nat) (b : Bool) :
    (m.setBit base j b).bit base k = if k = j then b else m.bit base k := by
  simp only [Memory.bit, Memory.setBit]
  by_cases hw : k / 32 = j / 32
  · have e : bitWordAt base k = bitWordAt base j := by simp only [bitWordAt, hw]
    rw [e, Memory.word_setWord_same, getLsbD_setWordBit _ _ _ _ (by omega)]
    by_cases hkj : k = j
    · simp [hkj]
    · rw [if_neg (by omega), if_neg hkj]
  · rw [Memory.word_setWord_ne, if_neg (by rintro rfl; exact hw rfl)]
    simp only [bitWordAt]
    omega

theorem Memory.bit_setBits (bs : List Bool) (m : Memory) (base j k : Nat) :
    (m.setBits base j bs).bit base k =
      if j ≤ k ∧ k < j + bs.length then bs.getD (k - j) false else m.bit base k := by
  induction bs generalizing m j with
  | nil => rw [if_neg (by simp)]; rfl
  | cons b bs ih =>
    simp only [Memory.setBits, ih, Memory.bit_setBit, List.length_cons]
    by_cases h0 : k = j
    · subst h0; simp
    · by_cases h : j ≤ k ∧ k < j + (bs.length + 1)
      · rw [if_pos (by omega), if_pos h, show k - j = (k - (j + 1)) + 1 by omega]; simp
      · rw [if_neg (by omega), if_neg h0, if_neg h]

theorem Memory.byte_setBits_outside (bs : List Bool) (m : Memory) (base j c : Nat)
    (h : ∀ k, j ≤ k → k < j + bs.length → c < bitWordAt base k ∨ bitWordAt base k + 4 ≤ c) :
    (m.setBits base j bs).byte c = m.byte c := by
  induction bs generalizing m j with
  | nil => rfl
  | cons b bs ih =>
    have h0 := h j (by omega) (by simp)
    rw [Memory.setBits, ih _ _ fun k h1 h2 => h k (by omega) (by simp only [List.length_cons]; omega), Memory.setBit,
      Memory.byte_setWord, if_neg (by omega)]

/-- Bits written past bit `j + n` of a buffer's words leave every byte outside those words as it was. -/
theorem Memory.byte_setBits_below (bs : List Bool) (m : Memory) (base j c : Nat)
    (h : c < base + 4 * (j / 32) ∨ base + 4 * ((j + bs.length + 31) / 32) ≤ c) :
    (m.setBits base j bs).byte c = m.byte c := by
  refine Memory.byte_setBits_outside _ _ _ _ _ fun k h1 h2 => ?_
  simp only [bitWordAt]
  omega

/-! ## Symbols -/

theorem length_flatMap_symBits (qs : List (BitVec 2)) : (qs.flatMap symBits).length = 2 * qs.length := by
  induction qs with
  | nil => rfl
  | cons q qs ih => simp only [List.flatMap_cons, List.length_append, ih, symBits, List.length_cons, List.length_nil]; omega

theorem getD_flatMap_symBits (qs : List (BitVec 2)) (k : Nat) (hk : k < qs.length) :
    (qs.flatMap symBits).getD (2 * k) false = (qs.getD k 0#2).getLsbD 1 ∧
      (qs.flatMap symBits).getD (2 * k + 1) false = (qs.getD k 0#2).getLsbD 0 := by
  induction qs generalizing k with
  | nil => simp at hk
  | cons q qs ih =>
    cases k with
    | zero => simp [symBits]
    | succ k =>
      have := ih k (by simpa using hk)
      simp only [List.flatMap_cons, symBits, List.cons_append, List.nil_append]
      rw [show 2 * (k + 1) = 2 * k + 1 + 1 by omega]
      simpa using this

/-- SYM(k) is its two bits of the symbol bit view (20_memory.md R80). -/
theorem Memory.sym_getLsbD (m : Memory) (k : Nat) :
    (m.sym k).getLsbD 1 = m.sbit (2 * k) ∧ (m.sym k).getLsbD 0 = m.sbit (2 * k + 1) := by
  have hw : symbufBase + 4 * (k / 16) = bitWordAt symbufBase (2 * k) := by simp only [bitWordAt]; omega
  have hw' : symbufBase + 4 * (k / 16) = bitWordAt symbufBase (2 * k + 1) := by simp only [bitWordAt]; omega
  constructor
  · simp only [Memory.sym, Memory.sbit, Memory.bit, ← hw, BitVec.getLsbD_extractLsb']
    rw [show 30 - 2 * (k % 16) + 1 = 31 - 2 * k % 32 by omega]; simp
  · simp only [Memory.sym, Memory.sbit, Memory.bit, ← hw', BitVec.getLsbD_extractLsb']
    rw [show 30 - 2 * (k % 16) + 0 = 31 - (2 * k + 1) % 32 by omega]; simp

/-- Two symbols with equal bits are equal. -/
theorem eq_of_two_bits {p q : BitVec 2} (h1 : p.getLsbD 1 = q.getLsbD 1) (h0 : p.getLsbD 0 = q.getLsbD 0) : p = q := by
  apply BitVec.eq_of_getLsbD_eq
  intro i hi
  interval_cases i <;> assumption

/-- Symbols written from SYM(k) on read back; every other symbol keeps its value (41_demodulator.md R147). -/
theorem Memory.sym_setSyms (m : Memory) (k i : Nat) (qs : List (BitVec 2)) :
    (m.setSyms k qs).sym i = if k ≤ i ∧ i < k + qs.length then qs.getD (i - k) 0#2 else m.sym i := by
  have b1 := Memory.bit_setBits (qs.flatMap symBits) m symbufBase (2 * k) (2 * i)
  have b0 := Memory.bit_setBits (qs.flatMap symBits) m symbufBase (2 * k) (2 * i + 1)
  rw [length_flatMap_symBits] at b1 b0
  have e := (m.setSyms k qs).sym_getLsbD i
  simp only [Memory.sbit, Memory.setSyms] at e
  by_cases h : k ≤ i ∧ i < k + qs.length
  · rw [if_pos h]
    have g := getD_flatMap_symBits qs (i - k) (by omega)
    rw [if_pos (by omega), show 2 * i - 2 * k = 2 * (i - k) by omega, g.1] at b1
    rw [if_pos (by omega), show 2 * i + 1 - 2 * k = 2 * (i - k) + 1 by omega, g.2] at b0
    exact eq_of_two_bits (e.1.trans b1) (e.2.trans b0)
  · rw [if_neg h]
    rw [if_neg (by omega)] at b1 b0
    have f := m.sym_getLsbD i
    exact eq_of_two_bits ((e.1.trans b1).trans f.1.symm) ((e.2.trans b0).trans f.2.symm)

theorem Memory.byte_setSyms_outside (m : Memory) (k c : Nat) (qs : List (BitVec 2))
    (h : c < symbufBase + 4 * (k / 16) ∨ symbufBase + 4 * ((k + qs.length + 15) / 16) ≤ c) :
    (m.setSyms k qs).byte c = m.byte c := by
  refine Memory.byte_setBits_below _ _ _ _ _ ?_
  rw [length_flatMap_symBits]
  omega

end Sys2Proof.Machine
end

