-- ==== Sys2Proof/Laws/Demod.lean ====
section
/-! SUPPORT. The demodulator: lengths, and what the phase search answers. -/

namespace Sys2Proof.Machine

theorem length_frontEnd_le (u : List Cplx) : (frontEnd u).length ≤ u.length := by
  simp only [frontEnd, List.length_take]
  omega

theorem State.length_demodSeq_le (s : State) : s.demodSeq.length ≤ s.demod.nsamp.toNat := by
  simp only [State.demodSeq, demodInput]
  split
  · exact (length_frontEnd_le _).trans (by simp)
  · simp

@[simp] theorem length_phaseSamples (x : List Cplx) (S p : Nat) :
    (phaseSamples x S p).length = phaseCount x.length S p := by simp [phaseSamples]

theorem phaseCount_le (N S p : Nat) : phaseCount N S p ≤ N := by
  simp only [phaseCount]
  split
  · have := Nat.div_le_self (N - 1 - p) S
    omega
  · omega

theorem phaseCount_pos_iff (N S p : Nat) : 0 < phaseCount N S p ↔ p < N := by
  simp only [phaseCount]
  split
  · exact ⟨fun _ => ‹_›, fun _ => Nat.succ_pos _⟩
  · omega

theorem length_diffProducts (ss : List Cplx) : (diffProducts ss).length = ss.length - 1 := by
  induction ss with
  | nil => rfl
  | cons a ss ih =>
    cases ss with
    | nil => rfl
    | cons b ss => simpa [diffProducts] using ih

@[simp] theorem length_symbolsOf (ss : List Cplx) : (symbolsOf ss).length = ss.length - 1 := by
  simp [symbolsOf, length_diffProducts]

/-- The k-th product is that of symbols k + 1 and k (41_demodulator.md R145). -/
theorem getD_diffProducts (ss : List Cplx) (k : Nat) (z : Cplx) (hk : k + 1 < ss.length) :
    (diffProducts ss).getD k z = diffProduct (ss.getD (k + 1) z) (ss.getD k z) := by
  induction ss generalizing k with
  | nil => simp at hk
  | cons a ss ih =>
    cases ss with
    | nil => simp at hk
    | cons b ss =>
      cases k with
      | zero => simp [diffProducts]
      | succ k => simpa [diffProducts] using ih k (by simpa using hk)

theorem getD_symbolsOf (ss : List Cplx) (k : Nat) (z : Cplx) (hk : k + 1 < ss.length) :
    (symbolsOf ss).getD k 0#2 = quantize (diffProduct (ss.getD (k + 1) z) (ss.getD k z)) := by
  have hl : k < (diffProducts ss).length := by rw [length_diffProducts]; omega
  rw [← getD_diffProducts ss k z hk]
  simp [symbolsOf, List.getD_eq_getElem?_getD, List.getElem?_eq_getElem hl]

theorem getD_phaseSamples (x : List Cplx) (S p k : Nat) (z : Cplx) (hk : k < phaseCount x.length S p) :
    (phaseSamples x S p).getD k z = x.getD (p + k * S) { re := 0, im := 0 } := by
  simp [phaseSamples, List.getD_eq_getElem?_getD, hk]

/-- The number of symbols of a DEMOD is at most 4095 when the checks pass (41_demodulator.md R147). -/
theorem State.length_demodSymbols_le (s : State) : s.demodSymbols.length ≤ s.demod.nsamp.toNat - 1 := by
  have h1 := s.length_demodSeq_le
  have h2 := phaseCount_le s.demodSeq.length s.demod.sps.toNat s.demodPhase
  simp only [State.demodSymbols, length_symbolsOf, length_phaseSamples]
  omega

/-! ## The phase search -/

theorem power_nonneg (c : Cplx) : 0 ≤ power c := by
  simp only [power]
  nlinarith [mul_self_nonneg c.re, mul_self_nonneg c.im]

/-- Candidate d is no better than candidate c. -/
def Candidate.atLeast (c d : Candidate) : Prop := d.energy * (c.count : Int) ≤ c.energy * (d.count : Int)

theorem Candidate.atLeast_trans {a b c : Candidate} (hb : 0 < b.count) (h1 : a.atLeast b) (h2 : b.atLeast c) :
    a.atLeast c := by
  simp only [Candidate.atLeast] at *
  have hb' : (0 : Int) < b.count := by exact_mod_cast hb
  have ha' : (0 : Int) ≤ a.count := by positivity
  have hc' : (0 : Int) ≤ c.count := by positivity
  refine le_of_mul_le_mul_right ?_ hb'
  nlinarith [mul_le_mul_of_nonneg_right h2 ha', mul_le_mul_of_nonneg_right h1 hc']

/-- Among candidates with positive counts one is at least as good as all. -/
theorem exists_best (cs : List Candidate) (hne : cs ≠ []) (hpos : ∀ c ∈ cs, 0 < c.count) :
    ∃ c ∈ cs, ∀ d ∈ cs, c.atLeast d := by
  induction cs with
  | nil => exact absurd rfl hne
  | cons a cs ih =>
    by_cases hcs : cs = []
    · subst hcs
      exact ⟨a, by simp, by simp [Candidate.atLeast]⟩
    · obtain ⟨c, hc, hbest⟩ := ih hcs fun d hd => hpos d (List.mem_cons_of_mem _ hd)
      have hcp := hpos c (List.mem_cons_of_mem _ hc)
      by_cases h : c.atLeast a
      · refine ⟨c, List.mem_cons_of_mem _ hc, fun d hd => ?_⟩
        rcases List.mem_cons.1 hd with rfl | hd
        · exact h
        · exact hbest d hd
      · refine ⟨a, List.mem_cons_self .., fun d hd => ?_⟩
        rcases List.mem_cons.1 hd with rfl | hd
        · simp [Candidate.atLeast]
        · refine Candidate.atLeast_trans hcp ?_ (hbest d hd)
          simp only [Candidate.atLeast] at *
          omega

theorem mem_candidates {x : List Cplx} {S : Nat} {c : Candidate} :
    c ∈ candidates x S ↔ c.phase < S ∧ 0 < c.count ∧ c.energy = phaseEnergy x S c.phase ∧
      c.count = phaseCount x.length S c.phase := by
  simp only [candidates, List.mem_map, List.mem_filter, List.mem_range, decide_eq_true_eq]
  constructor
  · rintro ⟨p, ⟨hp, hc⟩, rfl⟩
    exact ⟨hp, hc, rfl, rfl⟩
  · rintro ⟨hp, hc, he, hn⟩
    exact ⟨c.phase, ⟨hp, hn ▸ hc⟩, by cases c; simp_all⟩

/-- The candidates stand in strictly rising order of phase. -/
theorem candidates_rising (x : List Cplx) (S : Nat) :
    (candidates x S).Pairwise fun c d => c.phase < d.phase := by
  refine List.Pairwise.map _ (fun _ _ h => h) ?_
  exact List.Pairwise.filter _ List.pairwise_lt_range

/-- What `leastBest` answers over candidates in rising order of phase: 0 for none, else the phase of a best one, and every
candidate of a smaller phase is beaten. -/
theorem leastBest_spec (cs : List Candidate) (hpos : ∀ c ∈ cs, 0 < c.count)
    (hr : cs.Pairwise fun c d => c.phase < d.phase) :
    (cs = [] ∧ leastBest cs = 0) ∨
      ∃ c ∈ cs, leastBest cs = c.phase ∧ (∀ d ∈ cs, c.atLeast d) ∧
        ∀ b ∈ cs, b.phase < c.phase → ∃ d ∈ cs, ¬b.atLeast d := by
  by_cases hne : cs = []
  · subst hne
    exact .inl ⟨rfl, rfl⟩
  · right
    simp only [leastBest]
    split
    · rename_i c hf
      obtain ⟨hc, before, after, hsplit, hnot⟩ := List.find?_eq_some_iff_append.1 hf
      simp only [List.all_eq_true, decide_eq_true_eq] at hc
      have hmem : c ∈ cs := by rw [hsplit]; simp
      refine ⟨c, hmem, rfl, hc, fun b hb hlt => ?_⟩
      have hbefore : b ∈ before := by
        rw [hsplit] at hb hr
        rcases List.mem_append.1 hb with hb | hb
        · exact hb
        · exfalso
          rcases List.mem_cons.1 hb with rfl | hb
          · omega
          · have := (List.pairwise_cons.1 (List.pairwise_append.1 hr).2.1).1 b hb
            omega
      have := hnot b hbefore
      simp only [Bool.not_eq_true', List.all_eq_false, decide_eq_true_eq] at this
      exact this
    · rename_i hf
      exfalso
      obtain ⟨c, hc, hbest⟩ := exists_best cs hne hpos
      rw [List.find?_eq_none] at hf
      refine hf c hc ?_
      simp only [List.all_eq_true, decide_eq_true_eq]
      exact hbest

/-- What the phase search answers (41_demodulator.md R143). -/
theorem bestPhase_spec (x : List Cplx) (S : Nat) :
    ((∀ p, p < S → phaseCount x.length S p = 0) ∧ bestPhase x S = 0) ∨
      (bestPhase x S < S ∧ 0 < phaseCount x.length S (bestPhase x S) ∧
        (∀ q, q < S → 0 < phaseCount x.length S q →
          phaseEnergy x S q * (phaseCount x.length S (bestPhase x S) : Int) ≤
            phaseEnergy x S (bestPhase x S) * (phaseCount x.length S q : Int)) ∧
        ∀ p, p < bestPhase x S → 0 < phaseCount x.length S p →
          ∃ q, q < S ∧ 0 < phaseCount x.length S q ∧
            ¬(phaseEnergy x S q * (phaseCount x.length S p : Int) ≤ phaseEnergy x S p * (phaseCount x.length S q : Int))) := by
  rcases leastBest_spec (candidates x S) (fun c hc => (mem_candidates.1 hc).2.1) (candidates_rising x S) with
    ⟨hnil, h0⟩ | ⟨c, hc, hP, hbest, hleast⟩
  · refine .inl ⟨fun p hp => ?_, h0⟩
    by_contra hne
    have : (⟨p, phaseEnergy x S p, phaseCount x.length S p⟩ : Candidate) ∈ candidates x S :=
      mem_candidates.2 ⟨hp, Nat.pos_of_ne_zero hne, rfl, rfl⟩
    rw [hnil] at this
    simp at this
  · obtain ⟨hcS, hcpos, hcE, hcn⟩ := mem_candidates.1 hc
    have hPc : bestPhase x S = c.phase := hP
    refine .inr ⟨hPc ▸ hcS, hPc ▸ hcn ▸ hcpos, fun q hq hqn => ?_, fun p hp hpn => ?_⟩
    · have := hbest ⟨q, phaseEnergy x S q, phaseCount x.length S q⟩ (mem_candidates.2 ⟨hq, hqn, rfl, rfl⟩)
      simpa only [Candidate.atLeast, hPc, ← hcE, ← hcn] using this
    · obtain ⟨d, hd, hnot⟩ := hleast ⟨p, phaseEnergy x S p, phaseCount x.length S p⟩
        (mem_candidates.2 ⟨by simp only; omega, hpn, rfl, rfl⟩) (by simp only; omega)
      obtain ⟨hdS, hdpos, hdE, hdn⟩ := mem_candidates.1 hd
      refine ⟨d.phase, hdS, hdn ▸ hdpos, ?_⟩
      simpa only [Candidate.atLeast, hdE, hdn] using hnot

/-- The chosen phase fits its field (41_demodulator.md R143, 10_state.md R31). -/
theorem bestPhase_lt (x : List Cplx) (S : Nat) (hS : S ≠ 0) : bestPhase x S < S := by
  rcases bestPhase_spec x S with ⟨-, h⟩ | ⟨h, -⟩ <;> omega

end Sys2Proof.Machine
end

