-- ==== Sys2Proof/Laws/State.lean ====
section
/-! SUPPORT. One lemma per field of State for each shared update, true by unfolding the update: what it does to the field. -/

namespace Sys2Proof.Machine

/-! ## State.start -/

@[simp] theorem State.start_cmd (s : State) (w : Word) (d : Nat) : (s.start w d).cmd = w := rfl

@[simp] theorem State.start_status (s : State) (w : Word) (d : Nat) :
    (s.start w d).status =
      { done := false, code := 0x00#8, op := w.extractLsb' 0 8, wbusy := s.status.wbusy } := rfl

@[simp] theorem State.start_irq (s : State) (w : Word) (d : Nat) : (s.start w d).irq = s.irq := rfl

@[simp] theorem State.start_errInfo (s : State) (w : Word) (d : Nat) : (s.start w d).errInfo = s.errInfo := rfl

@[simp] theorem State.start_demod (s : State) (w : Word) (d : Nat) : (s.start w d).demod = s.demod := rfl

@[simp] theorem State.start_demodOut (s : State) (w : Word) (d : Nat) : (s.start w d).demodOut = s.demodOut := rfl

@[simp] theorem State.start_symCount (s : State) (w : Word) (d : Nat) : (s.start w d).symCount = s.symCount := rfl

@[simp] theorem State.start_sync (s : State) (w : Word) (d : Nat) : (s.start w d).sync = s.sync := rfl

@[simp] theorem State.start_syncResult (s : State) (w : Word) (d : Nat) :
    (s.start w d).syncResult =
      s.syncResult := rfl

@[simp] theorem State.start_burst (s : State) (w : Word) (d : Nat) : (s.start w d).burst = s.burst := rfl

@[simp] theorem State.start_burstResult (s : State) (w : Word) (d : Nat) :
    (s.start w d).burstResult =
      s.burstResult := rfl

@[simp] theorem State.start_burstTs (s : State) (w : Word) (d : Nat) : (s.start w d).burstTs = s.burstTs := rfl

@[simp] theorem State.start_crc (s : State) (w : Word) (d : Nat) : (s.start w d).crc = s.crc := rfl

@[simp] theorem State.start_crcValue (s : State) (w : Word) (d : Nat) : (s.start w d).crcValue = s.crcValue := rfl

@[simp] theorem State.start_crcResult (s : State) (w : Word) (d : Nat) : (s.start w d).crcResult = s.crcResult := rfl

@[simp] theorem State.start_tea (s : State) (w : Word) (d : Nat) : (s.start w d).tea = s.tea := rfl

@[simp] theorem State.start_teaNblk (s : State) (w : Word) (d : Nat) : (s.start w d).teaNblk = s.teaNblk := rfl

@[simp] theorem State.start_lk (s : State) (w : Word) (d : Nat) : (s.start w d).lk = s.lk := rfl

@[simp] theorem State.start_eng (s : State) (w : Word) (d : Nat) : (s.start w d).eng = .running d := rfl

@[simp] theorem State.start_mem (s : State) (w : Word) (d : Nat) : (s.start w d).mem = s.mem := rfl

@[simp] theorem State.start_rstN (s : State) (w : Word) (d : Nat) : (s.start w d).rstN = s.rstN := rfl

@[simp] theorem State.start_inputs (s : State) (w : Word) (d : Nat) : (s.start w d).inputs = s.inputs := rfl

@[simp] theorem State.start_response (s : State) (w : Word) (d : Nat) : (s.start w d).response = s.response := rfl

@[simp] theorem State.start_draws (s : State) (w : Word) (d : Nat) : (s.start w d).draws = s.draws := rfl

/-! ## State.complete -/

@[simp] theorem State.complete_cmd (s : State) (c : Code) (v : Word) : (s.complete c v).cmd = s.cmd := rfl

@[simp] theorem State.complete_status (s : State) (c : Code) (v : Word) :
    (s.complete c v).status =
      { s.status with code := c.byte, done := true } := rfl

@[simp] theorem State.complete_irq (s : State) (c : Code) (v : Word) :
    (s.complete c v).irq =
      { s.irq with done := true, err := s.irq.err || c.isError } := rfl

@[simp] theorem State.complete_errInfo (s : State) (c : Code) (v : Word) :
    (s.complete c v).errInfo =
      if c.isError then v else 0#32 := rfl

@[simp] theorem State.complete_demod (s : State) (c : Code) (v : Word) : (s.complete c v).demod = s.demod := rfl

@[simp] theorem State.complete_demodOut (s : State) (c : Code) (v : Word) :
    (s.complete c v).demodOut =
      s.demodOut := rfl

@[simp] theorem State.complete_symCount (s : State) (c : Code) (v : Word) :
    (s.complete c v).symCount =
      s.symCount := rfl

@[simp] theorem State.complete_sync (s : State) (c : Code) (v : Word) : (s.complete c v).sync = s.sync := rfl

@[simp] theorem State.complete_syncResult (s : State) (c : Code) (v : Word) :
    (s.complete c v).syncResult =
      s.syncResult := rfl

@[simp] theorem State.complete_burst (s : State) (c : Code) (v : Word) : (s.complete c v).burst = s.burst := rfl

@[simp] theorem State.complete_burstResult (s : State) (c : Code) (v : Word) :
    (s.complete c v).burstResult =
      s.burstResult := rfl

@[simp] theorem State.complete_burstTs (s : State) (c : Code) (v : Word) : (s.complete c v).burstTs = s.burstTs := rfl

@[simp] theorem State.complete_crc (s : State) (c : Code) (v : Word) : (s.complete c v).crc = s.crc := rfl

@[simp] theorem State.complete_crcValue (s : State) (c : Code) (v : Word) :
    (s.complete c v).crcValue =
      s.crcValue := rfl

@[simp] theorem State.complete_crcResult (s : State) (c : Code) (v : Word) :
    (s.complete c v).crcResult =
      s.crcResult := rfl

@[simp] theorem State.complete_tea (s : State) (c : Code) (v : Word) : (s.complete c v).tea = s.tea := rfl

@[simp] theorem State.complete_teaNblk (s : State) (c : Code) (v : Word) : (s.complete c v).teaNblk = s.teaNblk := rfl

@[simp] theorem State.complete_lk (s : State) (c : Code) (v : Word) : (s.complete c v).lk = s.lk := rfl

@[simp] theorem State.complete_eng (s : State) (c : Code) (v : Word) : (s.complete c v).eng = .idle := rfl

@[simp] theorem State.complete_mem (s : State) (c : Code) (v : Word) : (s.complete c v).mem = s.mem := rfl

@[simp] theorem State.complete_rstN (s : State) (c : Code) (v : Word) : (s.complete c v).rstN = s.rstN := rfl

@[simp] theorem State.complete_inputs (s : State) (c : Code) (v : Word) : (s.complete c v).inputs = s.inputs := rfl

@[simp] theorem State.complete_response (s : State) (c : Code) (v : Word) :
    (s.complete c v).response =
      s.response := rfl

@[simp] theorem State.complete_draws (s : State) (c : Code) (v : Word) : (s.complete c v).draws = s.draws := rfl

/-! ## State.ackIrq -/

@[simp] theorem State.ackIrq_cmd (s : State) (v : Word) : (s.ackIrq v).cmd = s.cmd := rfl

@[simp] theorem State.ackIrq_status (s : State) (v : Word) : (s.ackIrq v).status = s.status := rfl

@[simp] theorem State.ackIrq_irq (s : State) (v : Word) :
    (s.ackIrq v).irq =
      { s.irq with done := s.irq.done && !v.getLsbD 0, err := s.irq.err && !v.getLsbD 1 } := rfl

@[simp] theorem State.ackIrq_errInfo (s : State) (v : Word) : (s.ackIrq v).errInfo = s.errInfo := rfl

@[simp] theorem State.ackIrq_demod (s : State) (v : Word) : (s.ackIrq v).demod = s.demod := rfl

@[simp] theorem State.ackIrq_demodOut (s : State) (v : Word) : (s.ackIrq v).demodOut = s.demodOut := rfl

@[simp] theorem State.ackIrq_symCount (s : State) (v : Word) : (s.ackIrq v).symCount = s.symCount := rfl

@[simp] theorem State.ackIrq_sync (s : State) (v : Word) : (s.ackIrq v).sync = s.sync := rfl

@[simp] theorem State.ackIrq_syncResult (s : State) (v : Word) : (s.ackIrq v).syncResult = s.syncResult := rfl

@[simp] theorem State.ackIrq_burst (s : State) (v : Word) : (s.ackIrq v).burst = s.burst := rfl

@[simp] theorem State.ackIrq_burstResult (s : State) (v : Word) : (s.ackIrq v).burstResult = s.burstResult := rfl

@[simp] theorem State.ackIrq_burstTs (s : State) (v : Word) : (s.ackIrq v).burstTs = s.burstTs := rfl

@[simp] theorem State.ackIrq_crc (s : State) (v : Word) : (s.ackIrq v).crc = s.crc := rfl

@[simp] theorem State.ackIrq_crcValue (s : State) (v : Word) : (s.ackIrq v).crcValue = s.crcValue := rfl

@[simp] theorem State.ackIrq_crcResult (s : State) (v : Word) : (s.ackIrq v).crcResult = s.crcResult := rfl

@[simp] theorem State.ackIrq_tea (s : State) (v : Word) : (s.ackIrq v).tea = s.tea := rfl

@[simp] theorem State.ackIrq_teaNblk (s : State) (v : Word) : (s.ackIrq v).teaNblk = s.teaNblk := rfl

@[simp] theorem State.ackIrq_lk (s : State) (v : Word) : (s.ackIrq v).lk = s.lk := rfl

@[simp] theorem State.ackIrq_eng (s : State) (v : Word) : (s.ackIrq v).eng = s.eng := rfl

@[simp] theorem State.ackIrq_mem (s : State) (v : Word) : (s.ackIrq v).mem = s.mem := rfl

@[simp] theorem State.ackIrq_rstN (s : State) (v : Word) : (s.ackIrq v).rstN = s.rstN := rfl

@[simp] theorem State.ackIrq_inputs (s : State) (v : Word) : (s.ackIrq v).inputs = s.inputs := rfl

@[simp] theorem State.ackIrq_response (s : State) (v : Word) : (s.ackIrq v).response = s.response := rfl

@[simp] theorem State.ackIrq_draws (s : State) (v : Word) : (s.ackIrq v).draws = s.draws := rfl

/-! ## State.startCommand -/

@[simp] theorem State.startCommand_cmd (s : State) (w : Word) : (s.startCommand w).cmd = w := rfl

@[simp] theorem State.startCommand_status (s : State) (w : Word) :
    (s.startCommand w).status =
      { done := false, code := 0x00#8, op := w.extractLsb' 0 8, wbusy := s.status.wbusy } := rfl

@[simp] theorem State.startCommand_irq (s : State) (w : Word) : (s.startCommand w).irq = s.irq := rfl

@[simp] theorem State.startCommand_errInfo (s : State) (w : Word) : (s.startCommand w).errInfo = s.errInfo := rfl

@[simp] theorem State.startCommand_demod (s : State) (w : Word) : (s.startCommand w).demod = s.demod := rfl

@[simp] theorem State.startCommand_demodOut (s : State) (w : Word) : (s.startCommand w).demodOut = s.demodOut := rfl

@[simp] theorem State.startCommand_symCount (s : State) (w : Word) : (s.startCommand w).symCount = s.symCount := rfl

@[simp] theorem State.startCommand_sync (s : State) (w : Word) : (s.startCommand w).sync = s.sync := rfl

@[simp] theorem State.startCommand_syncResult (s : State) (w : Word) :
    (s.startCommand w).syncResult =
      s.syncResult := rfl

@[simp] theorem State.startCommand_burst (s : State) (w : Word) : (s.startCommand w).burst = s.burst := rfl

@[simp] theorem State.startCommand_burstResult (s : State) (w : Word) :
    (s.startCommand w).burstResult =
      s.burstResult := rfl

@[simp] theorem State.startCommand_burstTs (s : State) (w : Word) : (s.startCommand w).burstTs = s.burstTs := rfl

@[simp] theorem State.startCommand_crc (s : State) (w : Word) : (s.startCommand w).crc = s.crc := rfl

@[simp] theorem State.startCommand_crcValue (s : State) (w : Word) : (s.startCommand w).crcValue = s.crcValue := rfl

@[simp] theorem State.startCommand_crcResult (s : State) (w : Word) :
    (s.startCommand w).crcResult =
      s.crcResult := rfl

@[simp] theorem State.startCommand_tea (s : State) (w : Word) : (s.startCommand w).tea = s.tea := rfl

@[simp] theorem State.startCommand_teaNblk (s : State) (w : Word) : (s.startCommand w).teaNblk = s.teaNblk := rfl

@[simp] theorem State.startCommand_lk (s : State) (w : Word) : (s.startCommand w).lk = s.lk := rfl

@[simp] theorem State.startCommand_eng (s : State) (w : Word) :
    (s.startCommand w).eng =
      .running (Config.latency s.draws) := rfl

@[simp] theorem State.startCommand_mem (s : State) (w : Word) : (s.startCommand w).mem = s.mem := rfl

@[simp] theorem State.startCommand_rstN (s : State) (w : Word) : (s.startCommand w).rstN = s.rstN := rfl

@[simp] theorem State.startCommand_inputs (s : State) (w : Word) : (s.startCommand w).inputs = s.inputs := rfl

@[simp] theorem State.startCommand_response (s : State) (w : Word) : (s.startCommand w).response = s.response := rfl

@[simp] theorem State.startCommand_draws (s : State) (w : Word) : (s.startCommand w).draws = s.draws + 1 := rfl

/-! ## State.demodOutputs -/

@[simp] theorem State.demodOutputs_cmd (s : State) : (s.demodOutputs).cmd = s.cmd := by simp only [State.demodOutputs]

@[simp] theorem State.demodOutputs_status (s : State) : (s.demodOutputs).status = s.status := by
  simp only [State.demodOutputs]

@[simp] theorem State.demodOutputs_irq (s : State) : (s.demodOutputs).irq = s.irq := by simp only [State.demodOutputs]

@[simp] theorem State.demodOutputs_errInfo (s : State) : (s.demodOutputs).errInfo = s.errInfo := by
  simp only [State.demodOutputs]

@[simp] theorem State.demodOutputs_demod (s : State) : (s.demodOutputs).demod = s.demod := by
  simp only [State.demodOutputs]

@[simp] theorem State.demodOutputs_demodOut (s : State) :
    (s.demodOutputs).demodOut =
      { phase := BitVec.ofNat 8 s.demodPhase, nfe := BitVec.ofNat 13 s.demodSeq.length } := by
  simp only [State.demodOutputs]

@[simp] theorem State.demodOutputs_symCount (s : State) :
    (s.demodOutputs).symCount =
      BitVec.ofNat 13 s.demodSymbols.length := by simp only [State.demodOutputs]

@[simp] theorem State.demodOutputs_sync (s : State) : (s.demodOutputs).sync = s.sync := by
  simp only [State.demodOutputs]

@[simp] theorem State.demodOutputs_syncResult (s : State) : (s.demodOutputs).syncResult = s.syncResult := by
  simp only [State.demodOutputs]

@[simp] theorem State.demodOutputs_burst (s : State) : (s.demodOutputs).burst = s.burst := by
  simp only [State.demodOutputs]

@[simp] theorem State.demodOutputs_burstResult (s : State) : (s.demodOutputs).burstResult = s.burstResult := by
  simp only [State.demodOutputs]

@[simp] theorem State.demodOutputs_burstTs (s : State) : (s.demodOutputs).burstTs = s.burstTs := by
  simp only [State.demodOutputs]

@[simp] theorem State.demodOutputs_crc (s : State) : (s.demodOutputs).crc = s.crc := by simp only [State.demodOutputs]

@[simp] theorem State.demodOutputs_crcValue (s : State) : (s.demodOutputs).crcValue = s.crcValue := by
  simp only [State.demodOutputs]

@[simp] theorem State.demodOutputs_crcResult (s : State) : (s.demodOutputs).crcResult = s.crcResult := by
  simp only [State.demodOutputs]

@[simp] theorem State.demodOutputs_tea (s : State) : (s.demodOutputs).tea = s.tea := by simp only [State.demodOutputs]

@[simp] theorem State.demodOutputs_teaNblk (s : State) : (s.demodOutputs).teaNblk = s.teaNblk := by
  simp only [State.demodOutputs]

@[simp] theorem State.demodOutputs_lk (s : State) : (s.demodOutputs).lk = s.lk := by simp only [State.demodOutputs]

@[simp] theorem State.demodOutputs_eng (s : State) : (s.demodOutputs).eng = s.eng := by simp only [State.demodOutputs]

@[simp] theorem State.demodOutputs_mem (s : State) : (s.demodOutputs).mem = s.mem.setSyms 0 s.demodSymbols := by
  simp only [State.demodOutputs]

@[simp] theorem State.demodOutputs_rstN (s : State) : (s.demodOutputs).rstN = s.rstN := by
  simp only [State.demodOutputs]

@[simp] theorem State.demodOutputs_inputs (s : State) : (s.demodOutputs).inputs = s.inputs := by
  simp only [State.demodOutputs]

@[simp] theorem State.demodOutputs_response (s : State) : (s.demodOutputs).response = s.response := by
  simp only [State.demodOutputs]

@[simp] theorem State.demodOutputs_draws (s : State) : (s.demodOutputs).draws = s.draws := by
  simp only [State.demodOutputs]

/-! ## State.syncOutputs -/

@[simp] theorem State.syncOutputs_cmd (s : State) : (s.syncOutputs).cmd = s.cmd := by simp only [State.syncOutputs]

@[simp] theorem State.syncOutputs_status (s : State) : (s.syncOutputs).status = s.status := by
  simp only [State.syncOutputs]

@[simp] theorem State.syncOutputs_irq (s : State) : (s.syncOutputs).irq = s.irq := by simp only [State.syncOutputs]

@[simp] theorem State.syncOutputs_errInfo (s : State) : (s.syncOutputs).errInfo = s.errInfo := by
  simp only [State.syncOutputs]

@[simp] theorem State.syncOutputs_demod (s : State) : (s.syncOutputs).demod = s.demod := by
  simp only [State.syncOutputs]

@[simp] theorem State.syncOutputs_demodOut (s : State) : (s.syncOutputs).demodOut = s.demodOut := by
  simp only [State.syncOutputs]

@[simp] theorem State.syncOutputs_symCount (s : State) : (s.syncOutputs).symCount = s.symCount := by
  simp only [State.syncOutputs]

@[simp] theorem State.syncOutputs_sync (s : State) : (s.syncOutputs).sync = s.sync := by simp only [State.syncOutputs]

@[simp] theorem State.syncOutputs_syncResult (s : State) :
    (s.syncOutputs).syncResult =
      { count := BitVec.ofNat 7 (min s.syncFound.list.length Config.syncCap), ovf := decide (Config.syncCap < s.syncFound.list.length), best := BitVec.ofNat 5 (bestCount s.syncCounts), pass := BitVec.ofNat 3 s.syncFound.pass } := by
  simp only [State.syncOutputs]

@[simp] theorem State.syncOutputs_burst (s : State) : (s.syncOutputs).burst = s.burst := by
  simp only [State.syncOutputs]

@[simp] theorem State.syncOutputs_burstResult (s : State) : (s.syncOutputs).burstResult = s.burstResult := by
  simp only [State.syncOutputs]

@[simp] theorem State.syncOutputs_burstTs (s : State) : (s.syncOutputs).burstTs = s.burstTs := by
  simp only [State.syncOutputs]

@[simp] theorem State.syncOutputs_crc (s : State) : (s.syncOutputs).crc = s.crc := by simp only [State.syncOutputs]

@[simp] theorem State.syncOutputs_crcValue (s : State) : (s.syncOutputs).crcValue = s.crcValue := by
  simp only [State.syncOutputs]

@[simp] theorem State.syncOutputs_crcResult (s : State) : (s.syncOutputs).crcResult = s.crcResult := by
  simp only [State.syncOutputs]

@[simp] theorem State.syncOutputs_tea (s : State) : (s.syncOutputs).tea = s.tea := by simp only [State.syncOutputs]

@[simp] theorem State.syncOutputs_teaNblk (s : State) : (s.syncOutputs).teaNblk = s.teaNblk := by
  simp only [State.syncOutputs]

@[simp] theorem State.syncOutputs_lk (s : State) : (s.syncOutputs).lk = s.lk := by simp only [State.syncOutputs]

@[simp] theorem State.syncOutputs_eng (s : State) : (s.syncOutputs).eng = s.eng := by simp only [State.syncOutputs]

@[simp] theorem State.syncOutputs_mem (s : State) :
    (s.syncOutputs).mem =
      s.mem.setWords syncOutBase s.syncEntries := by simp only [State.syncOutputs]

@[simp] theorem State.syncOutputs_rstN (s : State) : (s.syncOutputs).rstN = s.rstN := by simp only [State.syncOutputs]

@[simp] theorem State.syncOutputs_inputs (s : State) : (s.syncOutputs).inputs = s.inputs := by
  simp only [State.syncOutputs]

@[simp] theorem State.syncOutputs_response (s : State) : (s.syncOutputs).response = s.response := by
  simp only [State.syncOutputs]

@[simp] theorem State.syncOutputs_draws (s : State) : (s.syncOutputs).draws = s.draws := by
  simp only [State.syncOutputs]

/-! ## State.burstOutputs -/

@[simp] theorem State.burstOutputs_cmd (s : State) : (s.burstOutputs).cmd = s.cmd := by simp only [State.burstOutputs]

@[simp] theorem State.burstOutputs_status (s : State) : (s.burstOutputs).status = s.status := by
  simp only [State.burstOutputs]

@[simp] theorem State.burstOutputs_irq (s : State) : (s.burstOutputs).irq = s.irq := by simp only [State.burstOutputs]

@[simp] theorem State.burstOutputs_errInfo (s : State) : (s.burstOutputs).errInfo = s.errInfo := by
  simp only [State.burstOutputs]

@[simp] theorem State.burstOutputs_demod (s : State) : (s.burstOutputs).demod = s.demod := by
  simp only [State.burstOutputs]

@[simp] theorem State.burstOutputs_demodOut (s : State) : (s.burstOutputs).demodOut = s.demodOut := by
  simp only [State.burstOutputs]

@[simp] theorem State.burstOutputs_symCount (s : State) : (s.burstOutputs).symCount = s.symCount := by
  simp only [State.burstOutputs]

@[simp] theorem State.burstOutputs_sync (s : State) : (s.burstOutputs).sync = s.sync := by
  simp only [State.burstOutputs]

@[simp] theorem State.burstOutputs_syncResult (s : State) : (s.burstOutputs).syncResult = s.syncResult := by
  simp only [State.burstOutputs]

@[simp] theorem State.burstOutputs_burst (s : State) : (s.burstOutputs).burst = s.burst := by
  simp only [State.burstOutputs]

@[simp] theorem State.burstOutputs_burstResult (s : State) :
    (s.burstOutputs).burstResult =
      { btype := BitVec.ofNat 3 s.burstType, crcOk := s.burstReport.ok, tsLen := BitVec.ofNat 5 s.burstTraining.length, midMatch := BitVec.ofNat 5 s.midMatch } := by
  simp only [State.burstOutputs]

@[simp] theorem State.burstOutputs_burstTs (s : State) :
    (s.burstOutputs).burstTs =
      BitVec.ofNat 22 (bitsVal s.burstTraining) := by simp only [State.burstOutputs]

@[simp] theorem State.burstOutputs_crc (s : State) : (s.burstOutputs).crc = s.crc := by simp only [State.burstOutputs]

@[simp] theorem State.burstOutputs_crcValue (s : State) : (s.burstOutputs).crcValue = s.burstReport.value := by
  simp only [State.burstOutputs]

@[simp] theorem State.burstOutputs_crcResult (s : State) : (s.burstOutputs).crcResult = s.burstReport.result := by
  simp only [State.burstOutputs]

@[simp] theorem State.burstOutputs_tea (s : State) : (s.burstOutputs).tea = s.tea := by simp only [State.burstOutputs]

@[simp] theorem State.burstOutputs_teaNblk (s : State) : (s.burstOutputs).teaNblk = s.teaNblk := by
  simp only [State.burstOutputs]

@[simp] theorem State.burstOutputs_lk (s : State) : (s.burstOutputs).lk = s.lk := by simp only [State.burstOutputs]

@[simp] theorem State.burstOutputs_eng (s : State) : (s.burstOutputs).eng = s.eng := by simp only [State.burstOutputs]

@[simp] theorem State.burstOutputs_mem (s : State) :
    (s.burstOutputs).mem =
      s.mem.setBits bitbufBase 0 s.burstData := by simp only [State.burstOutputs]

@[simp] theorem State.burstOutputs_rstN (s : State) : (s.burstOutputs).rstN = s.rstN := by
  simp only [State.burstOutputs]

@[simp] theorem State.burstOutputs_inputs (s : State) : (s.burstOutputs).inputs = s.inputs := by
  simp only [State.burstOutputs]

@[simp] theorem State.burstOutputs_response (s : State) : (s.burstOutputs).response = s.response := by
  simp only [State.burstOutputs]

@[simp] theorem State.burstOutputs_draws (s : State) : (s.burstOutputs).draws = s.draws := by
  simp only [State.burstOutputs]

/-! ## State.crcGenOutputs -/

@[simp] theorem State.crcGenOutputs_cmd (s : State) : (s.crcGenOutputs).cmd = s.cmd := by
  simp only [State.crcGenOutputs]

@[simp] theorem State.crcGenOutputs_status (s : State) : (s.crcGenOutputs).status = s.status := by
  simp only [State.crcGenOutputs]

@[simp] theorem State.crcGenOutputs_irq (s : State) : (s.crcGenOutputs).irq = s.irq := by
  simp only [State.crcGenOutputs]

@[simp] theorem State.crcGenOutputs_errInfo (s : State) : (s.crcGenOutputs).errInfo = s.errInfo := by
  simp only [State.crcGenOutputs]

@[simp] theorem State.crcGenOutputs_demod (s : State) : (s.crcGenOutputs).demod = s.demod := by
  simp only [State.crcGenOutputs]

@[simp] theorem State.crcGenOutputs_demodOut (s : State) : (s.crcGenOutputs).demodOut = s.demodOut := by
  simp only [State.crcGenOutputs]

@[simp] theorem State.crcGenOutputs_symCount (s : State) : (s.crcGenOutputs).symCount = s.symCount := by
  simp only [State.crcGenOutputs]

@[simp] theorem State.crcGenOutputs_sync (s : State) : (s.crcGenOutputs).sync = s.sync := by
  simp only [State.crcGenOutputs]

@[simp] theorem State.crcGenOutputs_syncResult (s : State) : (s.crcGenOutputs).syncResult = s.syncResult := by
  simp only [State.crcGenOutputs]

@[simp] theorem State.crcGenOutputs_burst (s : State) : (s.crcGenOutputs).burst = s.burst := by
  simp only [State.crcGenOutputs]

@[simp] theorem State.crcGenOutputs_burstResult (s : State) : (s.crcGenOutputs).burstResult = s.burstResult := by
  simp only [State.crcGenOutputs]

@[simp] theorem State.crcGenOutputs_burstTs (s : State) : (s.crcGenOutputs).burstTs = s.burstTs := by
  simp only [State.crcGenOutputs]

@[simp] theorem State.crcGenOutputs_crc (s : State) : (s.crcGenOutputs).crc = s.crc := by
  simp only [State.crcGenOutputs]

@[simp] theorem State.crcGenOutputs_crcValue (s : State) :
    (s.crcGenOutputs).crcValue =
      { nat := crc16 s.crcInput, rev := crc16 s.crcInput.reverse } := by simp only [State.crcGenOutputs]

@[simp] theorem State.crcGenOutputs_crcResult (s : State) : (s.crcGenOutputs).crcResult = s.crcResult := by
  simp only [State.crcGenOutputs]

@[simp] theorem State.crcGenOutputs_tea (s : State) : (s.crcGenOutputs).tea = s.tea := by
  simp only [State.crcGenOutputs]

@[simp] theorem State.crcGenOutputs_teaNblk (s : State) : (s.crcGenOutputs).teaNblk = s.teaNblk := by
  simp only [State.crcGenOutputs]

@[simp] theorem State.crcGenOutputs_lk (s : State) : (s.crcGenOutputs).lk = s.lk := by simp only [State.crcGenOutputs]

@[simp] theorem State.crcGenOutputs_eng (s : State) : (s.crcGenOutputs).eng = s.eng := by
  simp only [State.crcGenOutputs]

@[simp] theorem State.crcGenOutputs_mem (s : State) : (s.crcGenOutputs).mem = s.mem := by
  simp only [State.crcGenOutputs]

@[simp] theorem State.crcGenOutputs_rstN (s : State) : (s.crcGenOutputs).rstN = s.rstN := by
  simp only [State.crcGenOutputs]

@[simp] theorem State.crcGenOutputs_inputs (s : State) : (s.crcGenOutputs).inputs = s.inputs := by
  simp only [State.crcGenOutputs]

@[simp] theorem State.crcGenOutputs_response (s : State) : (s.crcGenOutputs).response = s.response := by
  simp only [State.crcGenOutputs]

@[simp] theorem State.crcGenOutputs_draws (s : State) : (s.crcGenOutputs).draws = s.draws := by
  simp only [State.crcGenOutputs]

/-! ## State.crcCheckOutputs -/

@[simp] theorem State.crcCheckOutputs_cmd (s : State) : (s.crcCheckOutputs).cmd = s.cmd := by
  simp only [State.crcCheckOutputs]

@[simp] theorem State.crcCheckOutputs_status (s : State) : (s.crcCheckOutputs).status = s.status := by
  simp only [State.crcCheckOutputs]

@[simp] theorem State.crcCheckOutputs_irq (s : State) : (s.crcCheckOutputs).irq = s.irq := by
  simp only [State.crcCheckOutputs]

@[simp] theorem State.crcCheckOutputs_errInfo (s : State) : (s.crcCheckOutputs).errInfo = s.errInfo := by
  simp only [State.crcCheckOutputs]

@[simp] theorem State.crcCheckOutputs_demod (s : State) : (s.crcCheckOutputs).demod = s.demod := by
  simp only [State.crcCheckOutputs]

@[simp] theorem State.crcCheckOutputs_demodOut (s : State) : (s.crcCheckOutputs).demodOut = s.demodOut := by
  simp only [State.crcCheckOutputs]

@[simp] theorem State.crcCheckOutputs_symCount (s : State) : (s.crcCheckOutputs).symCount = s.symCount := by
  simp only [State.crcCheckOutputs]

@[simp] theorem State.crcCheckOutputs_sync (s : State) : (s.crcCheckOutputs).sync = s.sync := by
  simp only [State.crcCheckOutputs]

@[simp] theorem State.crcCheckOutputs_syncResult (s : State) : (s.crcCheckOutputs).syncResult = s.syncResult := by
  simp only [State.crcCheckOutputs]

@[simp] theorem State.crcCheckOutputs_burst (s : State) : (s.crcCheckOutputs).burst = s.burst := by
  simp only [State.crcCheckOutputs]

@[simp] theorem State.crcCheckOutputs_burstResult (s : State) :
    (s.crcCheckOutputs).burstResult = s.burstResult := by simp only [State.crcCheckOutputs]

@[simp] theorem State.crcCheckOutputs_burstTs (s : State) : (s.crcCheckOutputs).burstTs = s.burstTs := by
  simp only [State.crcCheckOutputs]

@[simp] theorem State.crcCheckOutputs_crc (s : State) : (s.crcCheckOutputs).crc = s.crc := by
  simp only [State.crcCheckOutputs]

@[simp] theorem State.crcCheckOutputs_crcValue (s : State) : (s.crcCheckOutputs).crcValue = s.crcReport.value := by
  simp only [State.crcCheckOutputs]

@[simp] theorem State.crcCheckOutputs_crcResult (s : State) :
    (s.crcCheckOutputs).crcResult =
      s.crcReport.result := by simp only [State.crcCheckOutputs]

@[simp] theorem State.crcCheckOutputs_tea (s : State) : (s.crcCheckOutputs).tea = s.tea := by
  simp only [State.crcCheckOutputs]

@[simp] theorem State.crcCheckOutputs_teaNblk (s : State) : (s.crcCheckOutputs).teaNblk = s.teaNblk := by
  simp only [State.crcCheckOutputs]

@[simp] theorem State.crcCheckOutputs_lk (s : State) : (s.crcCheckOutputs).lk = s.lk := by
  simp only [State.crcCheckOutputs]

@[simp] theorem State.crcCheckOutputs_eng (s : State) : (s.crcCheckOutputs).eng = s.eng := by
  simp only [State.crcCheckOutputs]

@[simp] theorem State.crcCheckOutputs_mem (s : State) : (s.crcCheckOutputs).mem = s.mem := by
  simp only [State.crcCheckOutputs]

@[simp] theorem State.crcCheckOutputs_rstN (s : State) : (s.crcCheckOutputs).rstN = s.rstN := by
  simp only [State.crcCheckOutputs]

@[simp] theorem State.crcCheckOutputs_inputs (s : State) : (s.crcCheckOutputs).inputs = s.inputs := by
  simp only [State.crcCheckOutputs]

@[simp] theorem State.crcCheckOutputs_response (s : State) : (s.crcCheckOutputs).response = s.response := by
  simp only [State.crcCheckOutputs]

@[simp] theorem State.crcCheckOutputs_draws (s : State) : (s.crcCheckOutputs).draws = s.draws := by
  simp only [State.crcCheckOutputs]

/-! ## State.teaDecOutputs -/

@[simp] theorem State.teaDecOutputs_cmd (s : State) (x : TeaTransforms) : (s.teaDecOutputs x).cmd = s.cmd := by
  simp only [State.teaDecOutputs]

@[simp] theorem State.teaDecOutputs_status (s : State) (x : TeaTransforms) : (s.teaDecOutputs x).status = s.status := by
  simp only [State.teaDecOutputs]

@[simp] theorem State.teaDecOutputs_irq (s : State) (x : TeaTransforms) : (s.teaDecOutputs x).irq = s.irq := by
  simp only [State.teaDecOutputs]

@[simp] theorem State.teaDecOutputs_errInfo (s : State) (x : TeaTransforms) : (s.teaDecOutputs x).errInfo = s.errInfo := by
  simp only [State.teaDecOutputs]

@[simp] theorem State.teaDecOutputs_demod (s : State) (x : TeaTransforms) : (s.teaDecOutputs x).demod = s.demod := by
  simp only [State.teaDecOutputs]

@[simp] theorem State.teaDecOutputs_demodOut (s : State) (x : TeaTransforms) : (s.teaDecOutputs x).demodOut = s.demodOut := by
  simp only [State.teaDecOutputs]

@[simp] theorem State.teaDecOutputs_symCount (s : State) (x : TeaTransforms) : (s.teaDecOutputs x).symCount = s.symCount := by
  simp only [State.teaDecOutputs]

@[simp] theorem State.teaDecOutputs_sync (s : State) (x : TeaTransforms) : (s.teaDecOutputs x).sync = s.sync := by
  simp only [State.teaDecOutputs]

@[simp] theorem State.teaDecOutputs_syncResult (s : State) (x : TeaTransforms) : (s.teaDecOutputs x).syncResult = s.syncResult := by
  simp only [State.teaDecOutputs]

@[simp] theorem State.teaDecOutputs_burst (s : State) (x : TeaTransforms) : (s.teaDecOutputs x).burst = s.burst := by
  simp only [State.teaDecOutputs]

@[simp] theorem State.teaDecOutputs_burstResult (s : State) (x : TeaTransforms) : (s.teaDecOutputs x).burstResult = s.burstResult := by
  simp only [State.teaDecOutputs]

@[simp] theorem State.teaDecOutputs_burstTs (s : State) (x : TeaTransforms) : (s.teaDecOutputs x).burstTs = s.burstTs := by
  simp only [State.teaDecOutputs]

@[simp] theorem State.teaDecOutputs_crc (s : State) (x : TeaTransforms) : (s.teaDecOutputs x).crc = s.crc := by
  simp only [State.teaDecOutputs]

@[simp] theorem State.teaDecOutputs_crcValue (s : State) (x : TeaTransforms) : (s.teaDecOutputs x).crcValue = s.crcValue := by
  simp only [State.teaDecOutputs]

@[simp] theorem State.teaDecOutputs_crcResult (s : State) (x : TeaTransforms) : (s.teaDecOutputs x).crcResult = s.crcResult := by
  simp only [State.teaDecOutputs]

@[simp] theorem State.teaDecOutputs_tea (s : State) (x : TeaTransforms) : (s.teaDecOutputs x).tea = s.tea := by
  simp only [State.teaDecOutputs]

@[simp] theorem State.teaDecOutputs_teaNblk (s : State) (x : TeaTransforms) :
    (s.teaDecOutputs x).teaNblk =
      BitVec.ofNat 7 s.teaBlocks := by simp only [State.teaDecOutputs]

@[simp] theorem State.teaDecOutputs_lk (s : State) (x : TeaTransforms) : (s.teaDecOutputs x).lk = s.lk := by simp only [State.teaDecOutputs]

@[simp] theorem State.teaDecOutputs_eng (s : State) (x : TeaTransforms) : (s.teaDecOutputs x).eng = s.eng := by
  simp only [State.teaDecOutputs]

@[simp] theorem State.teaDecOutputs_mem (s : State) (x : TeaTransforms) :
    (s.teaDecOutputs x).mem =
      s.mem.setBytes coutBase (s.teaPlain x).flatten := by simp only [State.teaDecOutputs]

@[simp] theorem State.teaDecOutputs_rstN (s : State) (x : TeaTransforms) : (s.teaDecOutputs x).rstN = s.rstN := by
  simp only [State.teaDecOutputs]

@[simp] theorem State.teaDecOutputs_inputs (s : State) (x : TeaTransforms) : (s.teaDecOutputs x).inputs = s.inputs := by
  simp only [State.teaDecOutputs]

@[simp] theorem State.teaDecOutputs_response (s : State) (x : TeaTransforms) : (s.teaDecOutputs x).response = s.response := by
  simp only [State.teaDecOutputs]

@[simp] theorem State.teaDecOutputs_draws (s : State) (x : TeaTransforms) : (s.teaDecOutputs x).draws = s.draws := by
  simp only [State.teaDecOutputs]

/-! ## State.teaBlkOutputs -/

@[simp] theorem State.teaBlkOutputs_cmd (s : State) (x : TeaTransforms) : (s.teaBlkOutputs x).cmd = s.cmd := by
  simp only [State.teaBlkOutputs]

@[simp] theorem State.teaBlkOutputs_status (s : State) (x : TeaTransforms) : (s.teaBlkOutputs x).status = s.status := by
  simp only [State.teaBlkOutputs]

@[simp] theorem State.teaBlkOutputs_irq (s : State) (x : TeaTransforms) : (s.teaBlkOutputs x).irq = s.irq := by
  simp only [State.teaBlkOutputs]

@[simp] theorem State.teaBlkOutputs_errInfo (s : State) (x : TeaTransforms) : (s.teaBlkOutputs x).errInfo = s.errInfo := by
  simp only [State.teaBlkOutputs]

@[simp] theorem State.teaBlkOutputs_demod (s : State) (x : TeaTransforms) : (s.teaBlkOutputs x).demod = s.demod := by
  simp only [State.teaBlkOutputs]

@[simp] theorem State.teaBlkOutputs_demodOut (s : State) (x : TeaTransforms) : (s.teaBlkOutputs x).demodOut = s.demodOut := by
  simp only [State.teaBlkOutputs]

@[simp] theorem State.teaBlkOutputs_symCount (s : State) (x : TeaTransforms) : (s.teaBlkOutputs x).symCount = s.symCount := by
  simp only [State.teaBlkOutputs]

@[simp] theorem State.teaBlkOutputs_sync (s : State) (x : TeaTransforms) : (s.teaBlkOutputs x).sync = s.sync := by
  simp only [State.teaBlkOutputs]

@[simp] theorem State.teaBlkOutputs_syncResult (s : State) (x : TeaTransforms) : (s.teaBlkOutputs x).syncResult = s.syncResult := by
  simp only [State.teaBlkOutputs]

@[simp] theorem State.teaBlkOutputs_burst (s : State) (x : TeaTransforms) : (s.teaBlkOutputs x).burst = s.burst := by
  simp only [State.teaBlkOutputs]

@[simp] theorem State.teaBlkOutputs_burstResult (s : State) (x : TeaTransforms) : (s.teaBlkOutputs x).burstResult = s.burstResult := by
  simp only [State.teaBlkOutputs]

@[simp] theorem State.teaBlkOutputs_burstTs (s : State) (x : TeaTransforms) : (s.teaBlkOutputs x).burstTs = s.burstTs := by
  simp only [State.teaBlkOutputs]

@[simp] theorem State.teaBlkOutputs_crc (s : State) (x : TeaTransforms) : (s.teaBlkOutputs x).crc = s.crc := by
  simp only [State.teaBlkOutputs]

@[simp] theorem State.teaBlkOutputs_crcValue (s : State) (x : TeaTransforms) : (s.teaBlkOutputs x).crcValue = s.crcValue := by
  simp only [State.teaBlkOutputs]

@[simp] theorem State.teaBlkOutputs_crcResult (s : State) (x : TeaTransforms) : (s.teaBlkOutputs x).crcResult = s.crcResult := by
  simp only [State.teaBlkOutputs]

@[simp] theorem State.teaBlkOutputs_tea (s : State) (x : TeaTransforms) : (s.teaBlkOutputs x).tea = s.tea := by
  simp only [State.teaBlkOutputs]

@[simp] theorem State.teaBlkOutputs_teaNblk (s : State) (x : TeaTransforms) : (s.teaBlkOutputs x).teaNblk = 1#7 := by
  simp only [State.teaBlkOutputs]

@[simp] theorem State.teaBlkOutputs_lk (s : State) (x : TeaTransforms) : (s.teaBlkOutputs x).lk = s.lk := by simp only [State.teaBlkOutputs]

@[simp] theorem State.teaBlkOutputs_eng (s : State) (x : TeaTransforms) : (s.teaBlkOutputs x).eng = s.eng := by
  simp only [State.teaBlkOutputs]

@[simp] theorem State.teaBlkOutputs_mem (s : State) (x : TeaTransforms) :
    (s.teaBlkOutputs x).mem =
      s.mem.setBytes coutBase (blockDec x s.lk (s.mem.cinBlock 0)) := by simp only [State.teaBlkOutputs]

@[simp] theorem State.teaBlkOutputs_rstN (s : State) (x : TeaTransforms) : (s.teaBlkOutputs x).rstN = s.rstN := by
  simp only [State.teaBlkOutputs]

@[simp] theorem State.teaBlkOutputs_inputs (s : State) (x : TeaTransforms) : (s.teaBlkOutputs x).inputs = s.inputs := by
  simp only [State.teaBlkOutputs]

@[simp] theorem State.teaBlkOutputs_response (s : State) (x : TeaTransforms) : (s.teaBlkOutputs x).response = s.response := by
  simp only [State.teaBlkOutputs]

@[simp] theorem State.teaBlkOutputs_draws (s : State) (x : TeaTransforms) : (s.teaBlkOutputs x).draws = s.draws := by
  simp only [State.teaBlkOutputs]

/-! ## State.releaseReset -/

@[simp] theorem State.releaseReset_cmd (s : State) : (s.releaseReset).cmd = s.cmd := rfl

@[simp] theorem State.releaseReset_status (s : State) : (s.releaseReset).status = s.status := rfl

@[simp] theorem State.releaseReset_irq (s : State) : (s.releaseReset).irq = s.irq := rfl

@[simp] theorem State.releaseReset_errInfo (s : State) : (s.releaseReset).errInfo = s.errInfo := rfl

@[simp] theorem State.releaseReset_demod (s : State) : (s.releaseReset).demod = s.demod := rfl

@[simp] theorem State.releaseReset_demodOut (s : State) : (s.releaseReset).demodOut = s.demodOut := rfl

@[simp] theorem State.releaseReset_symCount (s : State) : (s.releaseReset).symCount = s.symCount := rfl

@[simp] theorem State.releaseReset_sync (s : State) : (s.releaseReset).sync = s.sync := rfl

@[simp] theorem State.releaseReset_syncResult (s : State) : (s.releaseReset).syncResult = s.syncResult := rfl

@[simp] theorem State.releaseReset_burst (s : State) : (s.releaseReset).burst = s.burst := rfl

@[simp] theorem State.releaseReset_burstResult (s : State) : (s.releaseReset).burstResult = s.burstResult := rfl

@[simp] theorem State.releaseReset_burstTs (s : State) : (s.releaseReset).burstTs = s.burstTs := rfl

@[simp] theorem State.releaseReset_crc (s : State) : (s.releaseReset).crc = s.crc := rfl

@[simp] theorem State.releaseReset_crcValue (s : State) : (s.releaseReset).crcValue = s.crcValue := rfl

@[simp] theorem State.releaseReset_crcResult (s : State) : (s.releaseReset).crcResult = s.crcResult := rfl

@[simp] theorem State.releaseReset_tea (s : State) : (s.releaseReset).tea = s.tea := rfl

@[simp] theorem State.releaseReset_teaNblk (s : State) : (s.releaseReset).teaNblk = s.teaNblk := rfl

@[simp] theorem State.releaseReset_lk (s : State) : (s.releaseReset).lk = s.lk := rfl

@[simp] theorem State.releaseReset_eng (s : State) : (s.releaseReset).eng = s.eng := rfl

@[simp] theorem State.releaseReset_mem (s : State) : (s.releaseReset).mem = s.mem := rfl

@[simp] theorem State.releaseReset_rstN (s : State) : (s.releaseReset).rstN = true := rfl

@[simp] theorem State.releaseReset_inputs (s : State) : (s.releaseReset).inputs = s.inputs := rfl

@[simp] theorem State.releaseReset_response (s : State) : (s.releaseReset).response = s.response := rfl

@[simp] theorem State.releaseReset_draws (s : State) : (s.releaseReset).draws = s.draws := rfl

/-! ## State.softReset -/

@[simp] theorem State.softReset_cmd (s : State) : (s.softReset).cmd = State.reset.cmd := rfl

@[simp] theorem State.softReset_status (s : State) : (s.softReset).status = State.reset.status := rfl

@[simp] theorem State.softReset_irq (s : State) : (s.softReset).irq = State.reset.irq := rfl

@[simp] theorem State.softReset_errInfo (s : State) : (s.softReset).errInfo = State.reset.errInfo := rfl

@[simp] theorem State.softReset_demod (s : State) : (s.softReset).demod = State.reset.demod := rfl

@[simp] theorem State.softReset_demodOut (s : State) : (s.softReset).demodOut = State.reset.demodOut := rfl

@[simp] theorem State.softReset_symCount (s : State) : (s.softReset).symCount = State.reset.symCount := rfl

@[simp] theorem State.softReset_sync (s : State) : (s.softReset).sync = State.reset.sync := rfl

@[simp] theorem State.softReset_syncResult (s : State) : (s.softReset).syncResult = State.reset.syncResult := rfl

@[simp] theorem State.softReset_burst (s : State) : (s.softReset).burst = State.reset.burst := rfl

@[simp] theorem State.softReset_burstResult (s : State) : (s.softReset).burstResult = State.reset.burstResult := rfl

@[simp] theorem State.softReset_burstTs (s : State) : (s.softReset).burstTs = State.reset.burstTs := rfl

@[simp] theorem State.softReset_crc (s : State) : (s.softReset).crc = State.reset.crc := rfl

@[simp] theorem State.softReset_crcValue (s : State) : (s.softReset).crcValue = State.reset.crcValue := rfl

@[simp] theorem State.softReset_crcResult (s : State) : (s.softReset).crcResult = State.reset.crcResult := rfl

@[simp] theorem State.softReset_tea (s : State) : (s.softReset).tea = State.reset.tea := rfl

@[simp] theorem State.softReset_teaNblk (s : State) : (s.softReset).teaNblk = State.reset.teaNblk := rfl

@[simp] theorem State.softReset_lk (s : State) : (s.softReset).lk = State.reset.lk := rfl

@[simp] theorem State.softReset_eng (s : State) : (s.softReset).eng = State.reset.eng := rfl

@[simp] theorem State.softReset_mem (s : State) : (s.softReset).mem = s.abandonedMem := rfl

@[simp] theorem State.softReset_rstN (s : State) : (s.softReset).rstN = s.rstN := rfl

@[simp] theorem State.softReset_inputs (s : State) : (s.softReset).inputs = s.inputs := rfl

@[simp] theorem State.softReset_response (s : State) : (s.softReset).response = s.response := rfl

@[simp] theorem State.softReset_draws (s : State) : (s.softReset).draws = s.draws + 1 := rfl

/-! ## State.hardReset -/

@[simp] theorem State.hardReset_cmd (s : State) : (s.hardReset).cmd = State.reset.cmd := rfl

@[simp] theorem State.hardReset_status (s : State) : (s.hardReset).status = State.reset.status := rfl

@[simp] theorem State.hardReset_irq (s : State) : (s.hardReset).irq = State.reset.irq := rfl

@[simp] theorem State.hardReset_errInfo (s : State) : (s.hardReset).errInfo = State.reset.errInfo := rfl

@[simp] theorem State.hardReset_demod (s : State) : (s.hardReset).demod = State.reset.demod := rfl

@[simp] theorem State.hardReset_demodOut (s : State) : (s.hardReset).demodOut = State.reset.demodOut := rfl

@[simp] theorem State.hardReset_symCount (s : State) : (s.hardReset).symCount = State.reset.symCount := rfl

@[simp] theorem State.hardReset_sync (s : State) : (s.hardReset).sync = State.reset.sync := rfl

@[simp] theorem State.hardReset_syncResult (s : State) : (s.hardReset).syncResult = State.reset.syncResult := rfl

@[simp] theorem State.hardReset_burst (s : State) : (s.hardReset).burst = State.reset.burst := rfl

@[simp] theorem State.hardReset_burstResult (s : State) : (s.hardReset).burstResult = State.reset.burstResult := rfl

@[simp] theorem State.hardReset_burstTs (s : State) : (s.hardReset).burstTs = State.reset.burstTs := rfl

@[simp] theorem State.hardReset_crc (s : State) : (s.hardReset).crc = State.reset.crc := rfl

@[simp] theorem State.hardReset_crcValue (s : State) : (s.hardReset).crcValue = State.reset.crcValue := rfl

@[simp] theorem State.hardReset_crcResult (s : State) : (s.hardReset).crcResult = State.reset.crcResult := rfl

@[simp] theorem State.hardReset_tea (s : State) : (s.hardReset).tea = State.reset.tea := rfl

@[simp] theorem State.hardReset_teaNblk (s : State) : (s.hardReset).teaNblk = State.reset.teaNblk := rfl

@[simp] theorem State.hardReset_lk (s : State) : (s.hardReset).lk = State.reset.lk := rfl

@[simp] theorem State.hardReset_eng (s : State) : (s.hardReset).eng = State.reset.eng := rfl

@[simp] theorem State.hardReset_mem (s : State) : (s.hardReset).mem = { cells := [], draw := s.draws } := rfl

@[simp] theorem State.hardReset_rstN (s : State) : (s.hardReset).rstN = false := rfl

@[simp] theorem State.hardReset_inputs (s : State) : (s.hardReset).inputs = s.inputs := rfl

@[simp] theorem State.hardReset_response (s : State) : (s.hardReset).response = none := rfl

@[simp] theorem State.hardReset_draws (s : State) : (s.hardReset).draws = s.draws + 1 := rfl

/-! ## State.answer -/

@[simp] theorem State.answer_cmd (s : State) (r : BusResponse) : (s.answer r).cmd = s.cmd := rfl

@[simp] theorem State.answer_status (s : State) (r : BusResponse) : (s.answer r).status = s.status := rfl

@[simp] theorem State.answer_irq (s : State) (r : BusResponse) : (s.answer r).irq = s.irq := rfl

@[simp] theorem State.answer_errInfo (s : State) (r : BusResponse) : (s.answer r).errInfo = s.errInfo := rfl

@[simp] theorem State.answer_demod (s : State) (r : BusResponse) : (s.answer r).demod = s.demod := rfl

@[simp] theorem State.answer_demodOut (s : State) (r : BusResponse) : (s.answer r).demodOut = s.demodOut := rfl

@[simp] theorem State.answer_symCount (s : State) (r : BusResponse) : (s.answer r).symCount = s.symCount := rfl

@[simp] theorem State.answer_sync (s : State) (r : BusResponse) : (s.answer r).sync = s.sync := rfl

@[simp] theorem State.answer_syncResult (s : State) (r : BusResponse) : (s.answer r).syncResult = s.syncResult := rfl

@[simp] theorem State.answer_burst (s : State) (r : BusResponse) : (s.answer r).burst = s.burst := rfl

@[simp] theorem State.answer_burstResult (s : State) (r : BusResponse) :
    (s.answer r).burstResult = s.burstResult := rfl

@[simp] theorem State.answer_burstTs (s : State) (r : BusResponse) : (s.answer r).burstTs = s.burstTs := rfl

@[simp] theorem State.answer_crc (s : State) (r : BusResponse) : (s.answer r).crc = s.crc := rfl

@[simp] theorem State.answer_crcValue (s : State) (r : BusResponse) : (s.answer r).crcValue = s.crcValue := rfl

@[simp] theorem State.answer_crcResult (s : State) (r : BusResponse) : (s.answer r).crcResult = s.crcResult := rfl

@[simp] theorem State.answer_tea (s : State) (r : BusResponse) : (s.answer r).tea = s.tea := rfl

@[simp] theorem State.answer_teaNblk (s : State) (r : BusResponse) : (s.answer r).teaNblk = s.teaNblk := rfl

@[simp] theorem State.answer_lk (s : State) (r : BusResponse) : (s.answer r).lk = s.lk := rfl

@[simp] theorem State.answer_eng (s : State) (r : BusResponse) : (s.answer r).eng = s.eng := rfl

@[simp] theorem State.answer_mem (s : State) (r : BusResponse) : (s.answer r).mem = s.mem := rfl

@[simp] theorem State.answer_rstN (s : State) (r : BusResponse) : (s.answer r).rstN = s.rstN := rfl

@[simp] theorem State.answer_inputs (s : State) (r : BusResponse) : (s.answer r).inputs = s.inputs := rfl

@[simp] theorem State.answer_response (s : State) (r : BusResponse) : (s.answer r).response = some r := rfl

@[simp] theorem State.answer_draws (s : State) (r : BusResponse) : (s.answer r).draws = s.draws := rfl

/-! ## State.drawn -/

@[simp] theorem State.drawn_cmd (s : State) : (s.drawn).cmd = s.cmd := rfl

@[simp] theorem State.drawn_status (s : State) : (s.drawn).status = s.status := rfl

@[simp] theorem State.drawn_irq (s : State) : (s.drawn).irq = s.irq := rfl

@[simp] theorem State.drawn_errInfo (s : State) : (s.drawn).errInfo = s.errInfo := rfl

@[simp] theorem State.drawn_demod (s : State) : (s.drawn).demod = s.demod := rfl

@[simp] theorem State.drawn_demodOut (s : State) : (s.drawn).demodOut = s.demodOut := rfl

@[simp] theorem State.drawn_symCount (s : State) : (s.drawn).symCount = s.symCount := rfl

@[simp] theorem State.drawn_sync (s : State) : (s.drawn).sync = s.sync := rfl

@[simp] theorem State.drawn_syncResult (s : State) : (s.drawn).syncResult = s.syncResult := rfl

@[simp] theorem State.drawn_burst (s : State) : (s.drawn).burst = s.burst := rfl

@[simp] theorem State.drawn_burstResult (s : State) : (s.drawn).burstResult = s.burstResult := rfl

@[simp] theorem State.drawn_burstTs (s : State) : (s.drawn).burstTs = s.burstTs := rfl

@[simp] theorem State.drawn_crc (s : State) : (s.drawn).crc = s.crc := rfl

@[simp] theorem State.drawn_crcValue (s : State) : (s.drawn).crcValue = s.crcValue := rfl

@[simp] theorem State.drawn_crcResult (s : State) : (s.drawn).crcResult = s.crcResult := rfl

@[simp] theorem State.drawn_tea (s : State) : (s.drawn).tea = s.tea := rfl

@[simp] theorem State.drawn_teaNblk (s : State) : (s.drawn).teaNblk = s.teaNblk := rfl

@[simp] theorem State.drawn_lk (s : State) : (s.drawn).lk = s.lk := rfl

@[simp] theorem State.drawn_eng (s : State) : (s.drawn).eng = s.eng := rfl

@[simp] theorem State.drawn_mem (s : State) : (s.drawn).mem = s.mem := rfl

@[simp] theorem State.drawn_rstN (s : State) : (s.drawn).rstN = s.rstN := rfl

@[simp] theorem State.drawn_inputs (s : State) : (s.drawn).inputs = s.inputs := rfl

@[simp] theorem State.drawn_response (s : State) : (s.drawn).response = s.response := rfl

@[simp] theorem State.drawn_draws (s : State) : (s.drawn).draws = s.draws + 1 := rfl

/-! ## State.storeBuffer -/

@[simp] theorem State.storeBuffer_cmd (s : State) (off : Nat) (v : Word) : (s.storeBuffer off v).cmd = s.cmd := rfl

@[simp] theorem State.storeBuffer_status (s : State) (off : Nat) (v : Word) :
    (s.storeBuffer off v).status = s.status := rfl

@[simp] theorem State.storeBuffer_irq (s : State) (off : Nat) (v : Word) : (s.storeBuffer off v).irq = s.irq := rfl

@[simp] theorem State.storeBuffer_errInfo (s : State) (off : Nat) (v : Word) :
    (s.storeBuffer off v).errInfo = s.errInfo := rfl

@[simp] theorem State.storeBuffer_demod (s : State) (off : Nat) (v : Word) :
    (s.storeBuffer off v).demod = s.demod := rfl

@[simp] theorem State.storeBuffer_demodOut (s : State) (off : Nat) (v : Word) :
    (s.storeBuffer off v).demodOut = s.demodOut := rfl

@[simp] theorem State.storeBuffer_symCount (s : State) (off : Nat) (v : Word) :
    (s.storeBuffer off v).symCount = s.symCount := rfl

@[simp] theorem State.storeBuffer_sync (s : State) (off : Nat) (v : Word) : (s.storeBuffer off v).sync = s.sync := rfl

@[simp] theorem State.storeBuffer_syncResult (s : State) (off : Nat) (v : Word) :
    (s.storeBuffer off v).syncResult = s.syncResult := rfl

@[simp] theorem State.storeBuffer_burst (s : State) (off : Nat) (v : Word) :
    (s.storeBuffer off v).burst = s.burst := rfl

@[simp] theorem State.storeBuffer_burstResult (s : State) (off : Nat) (v : Word) :
    (s.storeBuffer off v).burstResult = s.burstResult := rfl

@[simp] theorem State.storeBuffer_burstTs (s : State) (off : Nat) (v : Word) :
    (s.storeBuffer off v).burstTs = s.burstTs := rfl

@[simp] theorem State.storeBuffer_crc (s : State) (off : Nat) (v : Word) : (s.storeBuffer off v).crc = s.crc := rfl

@[simp] theorem State.storeBuffer_crcValue (s : State) (off : Nat) (v : Word) :
    (s.storeBuffer off v).crcValue = s.crcValue := rfl

@[simp] theorem State.storeBuffer_crcResult (s : State) (off : Nat) (v : Word) :
    (s.storeBuffer off v).crcResult = s.crcResult := rfl

@[simp] theorem State.storeBuffer_tea (s : State) (off : Nat) (v : Word) : (s.storeBuffer off v).tea = s.tea := rfl

@[simp] theorem State.storeBuffer_teaNblk (s : State) (off : Nat) (v : Word) :
    (s.storeBuffer off v).teaNblk = s.teaNblk := rfl

@[simp] theorem State.storeBuffer_lk (s : State) (off : Nat) (v : Word) : (s.storeBuffer off v).lk = s.lk := rfl

@[simp] theorem State.storeBuffer_eng (s : State) (off : Nat) (v : Word) : (s.storeBuffer off v).eng = s.eng := rfl

@[simp] theorem State.storeBuffer_mem (s : State) (off : Nat) (v : Word) :
    (s.storeBuffer off v).mem = s.mem.setWord off v := rfl

@[simp] theorem State.storeBuffer_rstN (s : State) (off : Nat) (v : Word) : (s.storeBuffer off v).rstN = s.rstN := rfl

@[simp] theorem State.storeBuffer_inputs (s : State) (off : Nat) (v : Word) :
    (s.storeBuffer off v).inputs = s.inputs := rfl

@[simp] theorem State.storeBuffer_response (s : State) (off : Nat) (v : Word) :
    (s.storeBuffer off v).response = s.response := rfl

@[simp] theorem State.storeBuffer_draws (s : State) (off : Nat) (v : Word) :
    (s.storeBuffer off v).draws = s.draws := rfl

/-! ## State.dropWrite -/

@[simp] theorem State.dropWrite_cmd (s : State) : (s.dropWrite).cmd = s.cmd := rfl

@[simp] theorem State.dropWrite_status (s : State) : (s.dropWrite).status = { s.status with wbusy := true } := rfl

@[simp] theorem State.dropWrite_irq (s : State) : (s.dropWrite).irq = s.irq := rfl

@[simp] theorem State.dropWrite_errInfo (s : State) : (s.dropWrite).errInfo = s.errInfo := rfl

@[simp] theorem State.dropWrite_demod (s : State) : (s.dropWrite).demod = s.demod := rfl

@[simp] theorem State.dropWrite_demodOut (s : State) : (s.dropWrite).demodOut = s.demodOut := rfl

@[simp] theorem State.dropWrite_symCount (s : State) : (s.dropWrite).symCount = s.symCount := rfl

@[simp] theorem State.dropWrite_sync (s : State) : (s.dropWrite).sync = s.sync := rfl

@[simp] theorem State.dropWrite_syncResult (s : State) : (s.dropWrite).syncResult = s.syncResult := rfl

@[simp] theorem State.dropWrite_burst (s : State) : (s.dropWrite).burst = s.burst := rfl

@[simp] theorem State.dropWrite_burstResult (s : State) : (s.dropWrite).burstResult = s.burstResult := rfl

@[simp] theorem State.dropWrite_burstTs (s : State) : (s.dropWrite).burstTs = s.burstTs := rfl

@[simp] theorem State.dropWrite_crc (s : State) : (s.dropWrite).crc = s.crc := rfl

@[simp] theorem State.dropWrite_crcValue (s : State) : (s.dropWrite).crcValue = s.crcValue := rfl

@[simp] theorem State.dropWrite_crcResult (s : State) : (s.dropWrite).crcResult = s.crcResult := rfl

@[simp] theorem State.dropWrite_tea (s : State) : (s.dropWrite).tea = s.tea := rfl

@[simp] theorem State.dropWrite_teaNblk (s : State) : (s.dropWrite).teaNblk = s.teaNblk := rfl

@[simp] theorem State.dropWrite_lk (s : State) : (s.dropWrite).lk = s.lk := rfl

@[simp] theorem State.dropWrite_eng (s : State) : (s.dropWrite).eng = s.eng := rfl

@[simp] theorem State.dropWrite_mem (s : State) : (s.dropWrite).mem = s.mem := rfl

@[simp] theorem State.dropWrite_rstN (s : State) : (s.dropWrite).rstN = s.rstN := rfl

@[simp] theorem State.dropWrite_inputs (s : State) : (s.dropWrite).inputs = s.inputs := rfl

@[simp] theorem State.dropWrite_response (s : State) : (s.dropWrite).response = s.response := rfl

@[simp] theorem State.dropWrite_draws (s : State) : (s.dropWrite).draws = s.draws := rfl

/-! ## State.waited -/

@[simp] theorem State.waited_cmd (s : State) (rest : List Input) : (s.waited rest).cmd = s.cmd := rfl

@[simp] theorem State.waited_status (s : State) (rest : List Input) : (s.waited rest).status = s.status := rfl

@[simp] theorem State.waited_irq (s : State) (rest : List Input) : (s.waited rest).irq = s.irq := rfl

@[simp] theorem State.waited_errInfo (s : State) (rest : List Input) : (s.waited rest).errInfo = s.errInfo := rfl

@[simp] theorem State.waited_demod (s : State) (rest : List Input) : (s.waited rest).demod = s.demod := rfl

@[simp] theorem State.waited_demodOut (s : State) (rest : List Input) : (s.waited rest).demodOut = s.demodOut := rfl

@[simp] theorem State.waited_symCount (s : State) (rest : List Input) : (s.waited rest).symCount = s.symCount := rfl

@[simp] theorem State.waited_sync (s : State) (rest : List Input) : (s.waited rest).sync = s.sync := rfl

@[simp] theorem State.waited_syncResult (s : State) (rest : List Input) :
    (s.waited rest).syncResult = s.syncResult := rfl

@[simp] theorem State.waited_burst (s : State) (rest : List Input) : (s.waited rest).burst = s.burst := rfl

@[simp] theorem State.waited_burstResult (s : State) (rest : List Input) :
    (s.waited rest).burstResult = s.burstResult := rfl

@[simp] theorem State.waited_burstTs (s : State) (rest : List Input) : (s.waited rest).burstTs = s.burstTs := rfl

@[simp] theorem State.waited_crc (s : State) (rest : List Input) : (s.waited rest).crc = s.crc := rfl

@[simp] theorem State.waited_crcValue (s : State) (rest : List Input) : (s.waited rest).crcValue = s.crcValue := rfl

@[simp] theorem State.waited_crcResult (s : State) (rest : List Input) :
    (s.waited rest).crcResult = s.crcResult := rfl

@[simp] theorem State.waited_tea (s : State) (rest : List Input) : (s.waited rest).tea = s.tea := rfl

@[simp] theorem State.waited_teaNblk (s : State) (rest : List Input) : (s.waited rest).teaNblk = s.teaNblk := rfl

@[simp] theorem State.waited_lk (s : State) (rest : List Input) : (s.waited rest).lk = s.lk := rfl

@[simp] theorem State.waited_eng (s : State) (rest : List Input) : (s.waited rest).eng = s.eng.tick := rfl

@[simp] theorem State.waited_mem (s : State) (rest : List Input) : (s.waited rest).mem = s.mem := rfl

@[simp] theorem State.waited_rstN (s : State) (rest : List Input) : (s.waited rest).rstN = s.rstN := rfl

@[simp] theorem State.waited_inputs (s : State) (rest : List Input) : (s.waited rest).inputs = rest := rfl

@[simp] theorem State.waited_response (s : State) (rest : List Input) : (s.waited rest).response = s.response := rfl

@[simp] theorem State.waited_draws (s : State) (rest : List Input) : (s.waited rest).draws = s.draws := rfl

end Sys2Proof.Machine
end

