-- ==== Sys2Proof/Laws/Sync.lean ====
section
/-! SUPPORT. The synchronizer: what a scan records, what the search ends with, and the bounds of its results. -/

namespace Sys2Proof.Machine

theorem length_offsetCounts (p1 p2 b : List Bool) : (offsetCounts p1 p2 b).length = b.length - 21 := by
  simp [offsetCounts]

/-! ## The best count -/

theorem le_foldl_max (c : List Nat) (a : Nat) : a ≤ c.foldl max a := by
  induction c generalizing a with
  | nil => exact Nat.le_refl _
  | cons x c ih => exact (Nat.le_max_left a x).trans (ih _)

theorem mem_le_foldl_max (c : List Nat) (a x : Nat) (hx : x ∈ c) : x ≤ c.foldl max a := by
  induction c generalizing a with
  | nil => simp at hx
  | cons y c ih =>
    rcases List.mem_cons.1 hx with rfl | hx
    · exact (Nat.le_max_right a x).trans (le_foldl_max _ _)
    · exact ih _ hx

theorem foldl_max_mem (c : List Nat) (a : Nat) : c.foldl max a = a ∨ c.foldl max a ∈ c := by
  induction c generalizing a with
  | nil => exact .inl rfl
  | cons y c ih =>
    rcases ih (max a y) with h | h
    · rw [List.foldl_cons, h]
      rcases Nat.le_total a y with hy | hy
      · exact .inr (by simp [Nat.max_eq_right hy])
      · exact .inl (Nat.max_eq_left hy)
    · exact .inr (List.mem_cons_of_mem _ h)

theorem mem_le_bestCount {c : List Nat} {x : Nat} (hx : x ∈ c) : x ≤ bestCount c := mem_le_foldl_max c 0 x hx

theorem bestCount_mem {c : List Nat} (hne : c ≠ []) : bestCount c ∈ c := by
  rcases foldl_max_mem c 0 with h | h
  · obtain ⟨x, hx⟩ := List.exists_mem_of_ne_nil c hne
    have h1 := mem_le_foldl_max c 0 x hx
    have : bestCount c = x := by simp only [bestCount]; omega
    exact this ▸ hx
  · exact h

theorem State.syncCounts_le (s : State) : ∀ x ∈ s.syncCounts, x ≤ 22 := by
  intro x hx
  simp only [State.syncCounts, offsetCounts, List.mem_map] at hx
  obtain ⟨i, _, rfl⟩ := hx
  exact windowCount_le _ _ _

theorem State.bestCount_le (s : State) : bestCount s.syncCounts ≤ 22 := by
  by_cases h : s.syncCounts = []
  · rw [h]; simp [bestCount]
  · exact s.syncCounts_le _ (bestCount_mem h)

/-! ## The list entries -/

/-- The four fields of a sync list entry (20_memory.md R83). -/
theorem syncEntry_fields (offset count : Nat) :
    (syncEntry offset count).extractLsb' 0 14 = BitVec.ofNat 14 offset ∧
    (syncEntry offset count).extractLsb' 14 2 = 0#2 ∧
    (syncEntry offset count).extractLsb' 16 5 = BitVec.ofNat 5 count ∧
    (syncEntry offset count).extractLsb' 21 11 = 0#11 := by
  have g : ∀ i, (syncEntry offset count).getLsbD i =
      (0#11 ++ BitVec.ofNat 5 count ++ 0#2 ++ BitVec.ofNat 14 offset : BitVec (11 + 5 + 2 + 14)).getLsbD i :=
    fun _ => rfl
  refine ⟨?_, ?_, ?_, ?_⟩ <;> apply BitVec.eq_of_getLsbD_eq <;> intro i hi <;>
    simp only [BitVec.getLsbD_extractLsb', g, BitVec.getLsbD_append, hi, decide_true, Bool.true_and]
  · rw [if_pos (by omega), Nat.zero_add]
  · rw [if_neg (by omega), if_pos (by omega)]; simp
  · rw [if_neg (by omega), if_neg (by omega), if_pos (by omega), show 16 + i - 14 - 2 = i by omega]
  · rw [if_neg (by omega), if_neg (by omega), if_neg (by omega)]; simp

/-! ## A scan -/

/-- What the loop records from offset i on, when it has turns enough: offsets from i that qualify, rising by at least the
skip, and every qualifying offset from i on lies less than the skip at or after one of them. -/
theorem scanFrom_spec (Q : Nat → Bool) (c : List Nat) (skip : Nat) (hskip : skip ≠ 0) (turns : Nat) :
    ∀ i, c.length ≤ i + turns →
      (scanFrom Q c skip turns i).Pairwise (fun a b => a + skip ≤ b) ∧
      (∀ j ∈ scanFrom Q c skip turns i, i ≤ j ∧ j < c.length ∧ Q (c.getD j 0) = true) ∧
      ∀ j, i ≤ j → j < c.length → Q (c.getD j 0) = true →
        ∃ k ∈ scanFrom Q c skip turns i, k ≤ j ∧ j < k + skip := by
  induction turns with
  | zero =>
    intro i hi
    refine ⟨List.Pairwise.nil, by simp [scanFrom], fun j h1 h2 => ?_⟩
    omega
  | succ turns ih =>
    intro i hi
    simp only [scanFrom]
    split
    · rename_i hlt
      split
      · rename_i hq
        obtain ⟨hp, hm, hcov⟩ := ih (i + skip) (by omega)
        refine ⟨List.pairwise_cons.2 ⟨fun j hj => (hm j hj).1, hp⟩, fun j hj => ?_, fun j h1 h2 h3 => ?_⟩
        · rcases List.mem_cons.1 hj with rfl | hj
          · exact ⟨Nat.le_refl _, hlt, hq⟩
          · obtain ⟨a, b⟩ := hm j hj
            exact ⟨by omega, b⟩
        · by_cases hj : j < i + skip
          · exact ⟨i, List.mem_cons_self .., h1, hj⟩
          · obtain ⟨k, hk, hkj⟩ := hcov j (by omega) h2 h3
            exact ⟨k, List.mem_cons_of_mem _ hk, hkj⟩
      · rename_i hq
        obtain ⟨hp, hm, hcov⟩ := ih (i + 1) (by omega)
        refine ⟨hp, fun j hj => ?_, fun j h1 h2 h3 => ?_⟩
        · obtain ⟨a, b⟩ := hm j hj
          exact ⟨by omega, b⟩
        · have hne : j ≠ i := by rintro rfl; exact hq h3
          exact hcov j (by omega) h2 h3
    · refine ⟨List.Pairwise.nil, by simp, fun j h1 h2 => ?_⟩
      omega

/-- What a scan records (42_frame_sync.md R165). -/
theorem scan_spec (Q : Nat → Bool) (c : List Nat) (skip : Nat) (hskip : skip ≠ 0) :
    (scan Q c skip).Pairwise (fun a b => a + skip ≤ b) ∧
    (∀ j ∈ scan Q c skip, j < c.length ∧ Q (c.getD j 0) = true) ∧
    ∀ j, j < c.length → Q (c.getD j 0) = true → ∃ k ∈ scan Q c skip, k ≤ j ∧ j < k + skip := by
  obtain ⟨hp, hm, hcov⟩ := scanFrom_spec Q c skip hskip c.length 0 (by omega)
  exact ⟨hp, fun j hj => (hm j hj).2, fun j h1 h2 => hcov j (by omega) h1 h2⟩

/-- A scan records nothing exactly when no offset qualifies. -/
theorem scan_eq_nil_iff (Q : Nat → Bool) (c : List Nat) (skip : Nat) (hskip : skip ≠ 0) :
    scan Q c skip = [] ↔ ∀ j, j < c.length → Q (c.getD j 0) = false := by
  obtain ⟨-, hm, hcov⟩ := scan_spec Q c skip hskip
  constructor
  · intro h j hj
    by_contra hq
    obtain ⟨k, hk, -⟩ := hcov j hj (by simpa using hq)
    rw [h] at hk
    simp at hk
  · intro h
    by_contra hne
    obtain ⟨k, hk⟩ := List.exists_mem_of_ne_nil _ hne
    obtain ⟨h1, h2⟩ := hm k hk
    rw [h k h1] at h2
    exact absurd h2 (by simp)

/-! ## The search -/

/-- What the cascade and the adaptive pass end with (42_frame_sync.md R166, R167). -/
theorem syncSearch_cases (r : SyncRegs) (c : List Nat) :
    let s0 := scan (meets r.thr0.toNat) c r.skip.toNat
    let s1 := scan (meets r.thr1.toNat) c r.skip.toNat
    let s2 := scan (meets r.thr2.toNat) c r.skip.toNat
    let a := adaptiveThreshold r.floor.toNat r.margin.toNat (bestCount c)
    (s0 ≠ [] ∧ syncSearch r c = ⟨0, s0⟩) ∨
    (s0 = [] ∧ s1 ≠ [] ∧ syncSearch r c = ⟨1, s1⟩) ∨
    (s0 = [] ∧ s1 = [] ∧ s2 ≠ [] ∧ syncSearch r c = ⟨2, s2⟩) ∨
    (s0 = [] ∧ s1 = [] ∧ s2 = [] ∧ 22 * r.floor.toNat ≤ 1000 * bestCount c ∧
      syncSearch r c = ⟨3, scan (fun n => decide (a ≤ 1000 * (n : Int))) c r.skip.toNat⟩) ∨
    (s0 = [] ∧ s1 = [] ∧ s2 = [] ∧ 1000 * bestCount c < 22 * r.floor.toNat ∧ syncSearch r c = ⟨7, []⟩) := by
  intro s0 s1 s2 a
  simp only [syncSearch]
  by_cases h0 : s0 = []
  · rw [if_neg (not_not.2 h0)]
    by_cases h1 : s1 = []
    · rw [if_neg (not_not.2 h1)]
      by_cases h2 : s2 = []
      · rw [if_neg (not_not.2 h2)]
        by_cases hf : 22 * r.floor.toNat ≤ 1000 * bestCount c
        · rw [if_pos hf]
          exact .inr (.inr (.inr (.inl ⟨h0, h1, h2, hf, rfl⟩)))
        · rw [if_neg hf]
          exact .inr (.inr (.inr (.inr ⟨h0, h1, h2, Nat.lt_of_not_le hf, rfl⟩)))
      · rw [if_pos h2]
        exact .inr (.inr (.inl ⟨h0, h1, h2, rfl⟩))
    · rw [if_pos h1]
      exact .inr (.inl ⟨h0, h1, rfl⟩)
  · rw [if_pos h0]
    exact .inl ⟨h0, rfl⟩

/-- The adaptive pass never records nothing (42_frame_sync.md R167). -/
theorem adaptive_ne_nil (r : SyncRegs) (c : List Nat) (hne : c ≠ []) (hskip : r.skip.toNat ≠ 0)
    (hf : 22 * r.floor.toNat ≤ 1000 * bestCount c) :
    scan (fun n => decide (adaptiveThreshold r.floor.toNat r.margin.toNat (bestCount c) ≤ 1000 * (n : Int))) c
      r.skip.toNat ≠ [] := by
  intro h
  rw [scan_eq_nil_iff _ _ _ hskip] at h
  obtain ⟨j, hj, hjb⟩ := List.getElem_of_mem (bestCount_mem hne)
  have := h j hj
  rw [List.getD_eq_getElem?_getD, List.getElem?_eq_getElem hj, Option.getD_some, hjb] at this
  have hle : adaptiveThreshold r.floor.toNat r.margin.toNat (bestCount c) ≤ 1000 * (bestCount c : Int) := by
    simp only [adaptiveThreshold]
    omega
  exact of_decide_eq_false this hle

end Sys2Proof.Machine
end

