-- ==== Sys2Proof/Laws/Exec.lean ====
section
/-! SUPPORT. The commands at once: each is a check that may fail, or its outputs and a completion with OK. -/

namespace Sys2Proof.Machine

/-- The check of a command that fails, if one does: its code and info value. -/
def State.checkOf (s : State) : Instr → Option (Code × Word)
  | .nop => none
  | .demod => s.demodCheck
  | .sync => s.syncCheck
  | .burst => s.burstCheck
  | .crcGen => if Config.bitCap < s.crc.nbits.toNat then some (.config, 0x070#32) else none
  | .crcCheck =>
    if Config.bitCap < s.crc.nbits.toNat then some (.config, 0x070#32)
    else if s.crc.nbits.toNat < 16 then some (.noResult, 0#32)
    else none
  | .teaKey => s.teaKeyCheck
  | .teaDec => s.teaDecCheck
  | .teaBlk => s.teaBlkCheck

/-- The state with a command's outputs written. -/
def State.outputsOf (s : State) : Instr → State
  | .nop => s
  | .demod => s.demodOutputs
  | .sync => s.syncOutputs
  | .burst => s.burstOutputs
  | .crcGen => s.crcGenOutputs
  | .crcCheck => s.crcCheckOutputs
  | .teaKey => { s with lk := s.newKey }
  | .teaDec => s.teaDecOutputs .defaults
  | .teaBlk => s.teaBlkOutputs .defaults

/-- What every command does (40_command.md R122 to R124): the first failing check's completion with nothing else written, or
its outputs and a completion with OK. -/
theorem exec_eq (i : Instr) (s : State) :
    exec i s = .next (match s.checkOf i with
      | some (code, info) => s.complete code info
      | none => (s.outputsOf i).complete .ok 0#32) := by
  cases i with
  | nop => rfl
  | demod => simp only [exec, execDemod, State.checkOf, State.outputsOf]; split <;> simp_all
  | sync => simp only [exec, execSync, State.checkOf, State.outputsOf]; split <;> simp_all
  | burst => simp only [exec, execBurst, State.checkOf, State.outputsOf]; split <;> simp_all
  | crcGen => simp only [exec, execCrcGen, State.checkOf, State.outputsOf]; split <;> simp_all
  | crcCheck =>
    simp only [exec, execCrcCheck, State.checkOf, State.outputsOf]
    split
    · simp_all
    · split <;> simp_all
  | teaKey => simp only [exec, execTeaKey, State.checkOf, State.outputsOf]; split <;> simp_all
  | teaDec => simp only [exec, execTeaDec, teaDecWith, State.checkOf, State.outputsOf]; split <;> simp_all
  | teaBlk => simp only [exec, execTeaBlk, teaBlkWith, State.checkOf, State.outputsOf]; split <;> simp_all

/-- A check that fails never reports OK. -/
theorem State.checkOf_ne_ok {s : State} {i : Instr} {code : Code} {info : Word} (h : s.checkOf i = some (code, info)) :
    code ≠ .ok := by
  rintro rfl
  cases i <;>
    simp only [State.checkOf, State.demodCheck, State.syncCheck, State.burstCheck, State.teaKeyCheck, State.teaDecCheck,
      State.teaBlkCheck] at h <;>
    (repeat' split at h) <;> simp at h

/-- Inversion of `exec`: a failed check, or the outputs. -/
theorem exec_cases {i : Instr} {s t : State} (h : exec i s = .next t) :
    (∃ code info, s.checkOf i = some (code, info) ∧ code ≠ .ok ∧ t = s.complete code info) ∨
      (s.checkOf i = none ∧ t = (s.outputsOf i).complete .ok 0#32) := by
  rw [exec_eq] at h
  split at h
  · rename_i code info hc
    exact .inl ⟨code, info, hc, State.checkOf_ne_ok hc, by cases h; rfl⟩
  · rename_i hc
    exact .inr ⟨hc, by cases h; rfl⟩

theorem exec_of_check {i : Instr} {s : State} {code : Code} {info : Word} (h : s.checkOf i = some (code, info)) :
    exec i s = .next (s.complete code info) := by
  rw [exec_eq, h]

theorem exec_of_ok {i : Instr} {s : State} (h : s.checkOf i = none) :
    exec i s = .next ((s.outputsOf i).complete .ok 0#32) := by
  rw [exec_eq, h]

/-! ## Given transforms (00_scope.md R6) -/

/-- `exec` is the machine of given transforms at the spec's defaults. -/
theorem exec_eq_execWith (i : Instr) (s : State) : exec i s = execWith .defaults i s := by cases i <;> rfl

/-- Only TEA_DEC and TEA_BLK depend on the transforms. -/
theorem execWith_eq_exec {i : Instr} (x : TeaTransforms) (s : State) (h : i ≠ .teaDec) (h' : i ≠ .teaBlk) :
    execWith x i s = exec i s := by cases i <;> first | exact absurd rfl h | exact absurd rfl h' | rfl

/-- What TEA_DEC does, for any transforms: the failing check's completion, or its outputs and a completion with OK. -/
theorem teaDecWith_eq (x : TeaTransforms) (s : State) :
    teaDecWith x s = .next (match s.teaDecCheck with
      | some (code, info) => s.complete code info
      | none => (s.teaDecOutputs x).complete .ok 0#32) := by
  simp only [teaDecWith]; split <;> simp_all

/-- What TEA_BLK does, for any transforms. -/
theorem teaBlkWith_eq (x : TeaTransforms) (s : State) :
    teaBlkWith x s = .next (match s.teaBlkCheck with
      | some (code, info) => s.complete code info
      | none => (s.teaBlkOutputs x).complete .ok 0#32) := by
  simp only [teaBlkWith]; split <;> simp_all

/-! ## When the checks pass -/

theorem State.demodCheck_eq_none (s : State) :
    s.demodCheck = none ↔ s.demod.sps.toNat ≠ 0 ∧ s.demod.nsamp.toNat ≤ 4096 := by
  simp only [State.demodCheck, Config.sampleCap]
  by_cases h0 : s.demod.sps.toNat = 0
  · simp [h0]
  · by_cases h1 : 4096 < s.demod.nsamp.toNat
    · simp [h0, h1]
    · simp [h0, h1]; omega

theorem State.syncCheck_eq_none (s : State) :
    s.syncCheck = none ↔ s.symCount.toNat ≤ 4096 ∧ s.sync.skip.toNat ≠ 0 ∧
      s.sync.start.toNat + 22 ≤ 2 * s.symCount.toNat := by
  simp only [State.syncCheck, Config.symCap]
  by_cases h0 : 4096 < s.symCount.toNat
  · rw [if_pos h0]; simp; omega
  · rw [if_neg h0]
    by_cases h1 : s.sync.skip.toNat = 0
    · simp [h1]
    · rw [if_neg h1]
      by_cases h2 : s.syncLength < 22
      · rw [if_pos h2]
        simp only [State.syncLength] at h2
        simp only [reduceCtorEq, false_iff, not_and]
        intro _ _
        split at h2 <;> omega
      · rw [if_neg h2]
        simp only [State.syncLength] at h2
        simp only [true_iff]
        refine ⟨by omega, h1, ?_⟩
        split at h2 <;> omega

theorem State.burstCheck_eq_none (s : State) :
    s.burstCheck = none ↔ s.symCount.toNat ≤ 4096 ∧ s.burst.start.toNat + 510 ≤ 2 * s.symCount.toNat := by
  simp only [State.burstCheck, Config.symCap, Config.burstBits]
  by_cases h0 : 4096 < s.symCount.toNat
  · rw [if_pos h0]; simp; omega
  · rw [if_neg h0]
    by_cases h1 : 2 * s.symCount.toNat < s.burst.start.toNat + 510
    · rw [if_pos h1]; simp; omega
    · rw [if_neg h1]; simp; omega

theorem State.teaKeyCheck_eq_none (s : State) :
    s.teaKeyCheck = none ↔ s.tea.alg.toNat < 4 ∧ s.tea.keyLen.toNat = requiredKeyLength s.tea.alg := by
  simp only [State.teaKeyCheck]
  by_cases h0 : 4 ≤ s.tea.alg.toNat
  · rw [if_pos h0]; simp; omega
  · rw [if_neg h0]
    by_cases h1 : s.tea.keyLen.toNat = requiredKeyLength s.tea.alg
    · rw [if_neg (not_not.2 h1)]; simp [h1]; omega
    · rw [if_pos h1]; simp [h1]

theorem State.teaDecCheck_eq_none (s : State) :
    s.teaDecCheck = none ↔ s.lk.valid = true ∧ s.tea.len.toNat ≤ 512 ∧ s.tea.len.toNat % 8 = 0 := by
  simp only [State.teaDecCheck, Config.cbufCap]
  by_cases h0 : s.lk.valid = false
  · simp [h0]
  · rw [if_neg h0]
    by_cases h1 : 512 < s.tea.len.toNat
    · rw [if_pos h1]; simp; omega
    · rw [if_neg h1]
      by_cases h2 : s.tea.len.toNat % 8 = 0
      · simp [h2]; exact ⟨by simpa using h0, Nat.le_of_not_lt h1⟩
      · simp [h2]

theorem State.teaBlkCheck_eq_none (s : State) :
    s.teaBlkCheck = none ↔ s.lk.valid = true ∧ s.tea.len.toNat = 8 := by
  simp only [State.teaBlkCheck]
  by_cases h0 : s.lk.valid = false
  · simp [h0]
  · by_cases h1 : s.tea.len.toNat = 8 <;> simp [h0, h1]

/-! ## Code values -/

@[simp] theorem Code.byte_eq_zero (c : Code) : c.byte = 0x00#8 ↔ c = .ok := by cases c <;> decide

theorem Code.byte_le (c : Code) : c.byte.toNat ≤ 8 := by cases c <;> decide

@[simp] theorem Code.isError_ok : Code.ok.isError = false := by decide

/-- A command completes with OK exactly when none of its checks fails. -/
theorem exec_code_eq_ok {i : Instr} {s t : State} (h : exec i s = .next t) :
    t.status.code = 0x00#8 ↔ s.checkOf i = none := by
  rcases exec_cases h with ⟨c, v, hc, hn, rfl⟩ | ⟨hc, rfl⟩
  · simp [hc, State.complete, hn]
  · simp [hc, State.complete]

/-! ## What a command's outputs leave alone -/

/-- No command's outputs are an operand register, a control register, the pin, or a field of the model's own. -/
theorem State.outputsOf_keeps (s : State) (i : Instr) :
    (s.outputsOf i).cmd = s.cmd ∧ (s.outputsOf i).status = s.status ∧ (s.outputsOf i).irq = s.irq ∧
    (s.outputsOf i).errInfo = s.errInfo ∧ (s.outputsOf i).demod = s.demod ∧ (s.outputsOf i).sync = s.sync ∧
    (s.outputsOf i).burst = s.burst ∧ (s.outputsOf i).crc = s.crc ∧ (s.outputsOf i).tea = s.tea ∧
    (s.outputsOf i).eng = s.eng ∧ (s.outputsOf i).rstN = s.rstN ∧ (s.outputsOf i).inputs = s.inputs ∧
    (s.outputsOf i).response = s.response ∧ (s.outputsOf i).draws = s.draws := by
  cases i <;> simp [State.outputsOf]

/-! ## Where a command's outputs lie -/

theorem regionOf_symbuf {a : Nat} : regionOf a = .symbuf ↔ 0x0800 ≤ a ∧ a < 0x0C00 := by
  simp only [regionOf]
  repeat' split
  all_goals simp
  all_goals omega

theorem regionOf_syncOut {a : Nat} : regionOf a = .syncOut ↔ 0x0100 ≤ a ∧ a < 0x0200 := by
  simp only [regionOf]
  repeat' split
  all_goals simp
  all_goals omega

theorem regionOf_bitbuf {a : Nat} : regionOf a = .bitbuf ↔ 0x0200 ≤ a ∧ a < 0x0280 := by
  simp only [regionOf]
  repeat' split
  all_goals simp
  all_goals omega

theorem regionOf_cin {a : Nat} : regionOf a = .cin ↔ 0x0400 ≤ a ∧ a < 0x0600 := by
  simp only [regionOf]
  repeat' split
  all_goals simp
  all_goals omega

theorem regionOf_cout {a : Nat} : regionOf a = .cout ↔ 0x0600 ≤ a ∧ a < 0x0800 := by
  simp only [regionOf]
  repeat' split
  all_goals simp
  all_goals omega

theorem regionOf_samples {a : Nat} : regionOf a = .samples ↔ 0x4000 ≤ a ∧ a < 0x8000 := by
  simp only [regionOf]
  repeat' split
  all_goals simp
  all_goals omega

theorem regionOf_regs {a : Nat} : regionOf a = .regs ↔ a < 0x0100 := by
  simp only [regionOf]
  repeat' split
  all_goals simp
  all_goals omega

/-- The buffer that a command's outputs lie in. -/
def ownBuffer : Instr → Region → Prop
  | .demod, r => r = .symbuf
  | .sync, r => r = .syncOut
  | .burst, r => r = .bitbuf
  | .teaDec, r => r = .cout
  | .teaBlk, r => r = .cout
  | _, _ => False

theorem ownBuffer_isBuffer {i : Instr} {a : Nat} (h : ownBuffer i (regionOf a)) : isBuffer a = true := by
  cases i <;> simp_all [ownBuffer, isBuffer]

theorem State.length_syncEntries_le (s : State) : s.syncEntries.length ≤ 64 := by
  simp only [State.syncEntries, List.length_map, List.length_take, Config.syncCap]
  omega

theorem State.length_burstBits (s : State) : s.burstBits.length = 510 := by
  simp [State.burstBits, Config.burstBits]

theorem State.length_burstData (s : State) : s.burstData.length = 216 := by
  simp [State.burstData, length_slice, State.length_burstBits]

theorem State.length_burstTraining (s : State) : s.burstTraining.length = if s.isSyncBurst then 22 else 14 := by
  simp only [State.burstTraining]
  split <;> simp [length_slice, State.length_burstBits]

/-- What a command's outputs do to the buffers keeps every property of memories that a byte written into the command's own
buffer keeps. -/
theorem State.outputsOf_mem_stable {P : Memory → Prop} {s : State} {i : Instr} (hc : s.checkOf i = none)
    (st : Memory.Stable (fun a => ownBuffer i (regionOf a)) P) (h : P s.mem) : P (s.outputsOf i).mem := by
  cases i with
  | nop => exact h
  | demod =>
    have hn := (s.demodCheck_eq_none.1 hc).2
    have hl := s.length_demodSymbols_le
    simp only [State.outputsOf, State.demodOutputs_mem, Memory.setSyms]
    refine st.setBits _ (fun k h1 h2 c h3 h4 => ?_) h
    rw [length_flatMap_symBits] at h2
    simp only [ownBuffer, regionOf_symbuf, bitWordAt, symbufBase] at *
    omega
  | sync =>
    have hl := s.length_syncEntries_le
    simp only [State.outputsOf, State.syncOutputs_mem]
    refine st.setWords _ (fun c h1 h2 => ?_) h
    simp only [ownBuffer, regionOf_syncOut, syncOutBase] at *
    omega
  | burst =>
    simp only [State.outputsOf, State.burstOutputs_mem]
    refine st.setBits _ (fun k h1 h2 c h3 h4 => ?_) h
    rw [State.length_burstData] at h2
    simp only [ownBuffer, regionOf_bitbuf, bitWordAt, bitbufBase] at *
    omega
  | crcGen => simpa [State.outputsOf] using h
  | crcCheck => simpa [State.outputsOf] using h
  | teaKey => simpa [State.outputsOf] using h
  | teaDec =>
    have hn := (s.teaDecCheck_eq_none.1 hc).2.1
    simp only [State.outputsOf, State.teaDecOutputs_mem]
    refine st.setBytes _ (fun c h1 h2 => ?_) h
    rw [State.length_teaPlain_flatten] at h2
    simp only [ownBuffer, regionOf_cout, coutBase, State.teaBlocks] at *
    omega
  | teaBlk =>
    simp only [State.outputsOf, State.teaBlkOutputs_mem]
    refine st.setBytes _ (fun c h1 h2 => ?_) h
    rw [length_blockDec] at h2
    simp only [ownBuffer, regionOf_cout, coutBase] at *
    omega

/-- A byte outside a command's own buffer reads as before. -/
theorem Memory.Stable.byte {ok : Nat → Prop} (m : Memory) (a : Nat) (ha : ¬ok a) :
    Memory.Stable ok fun n => n.byte a = m.byte a :=
  ⟨fun _ c _ hc h => by rw [Memory.byte_setByte, if_neg (by rintro rfl; exact ha hc), h]⟩

/-- A command writes no byte outside its own buffer. -/
theorem exec_mem_frame {i : Instr} {s t : State} (h : exec i s = .next t) (a : Nat) (ha : ¬ownBuffer i (regionOf a)) :
    t.mem.byte a = s.mem.byte a := by
  rcases exec_cases h with ⟨code, info, -, -, rfl⟩ | ⟨hc, rfl⟩
  · rfl
  · rw [State.complete_mem]
    exact State.outputsOf_mem_stable (P := fun m => m.byte a = s.mem.byte a) hc (Memory.Stable.byte s.mem a ha) rfl

end Sys2Proof.Machine
end

