-- ==== Sys2Proof/Laws/Agree.lean ====
section
/-! SUPPORT. What a command reads: two states that agree on CMD, the operand and output registers, the latched key and the
buffers pass the same check and write the same outputs, whatever STATUS, the interrupts, ENG and the model's own fields. -/

namespace Sys2Proof.Machine

/-- Two states agree on all that a command reads or writes as an output. -/
structure State.Agrees (s t : State) : Prop where
  cmd : t.cmd = s.cmd
  demod : t.demod = s.demod
  demodOut : t.demodOut = s.demodOut
  symCount : t.symCount = s.symCount
  sync : t.sync = s.sync
  syncResult : t.syncResult = s.syncResult
  burst : t.burst = s.burst
  burstResult : t.burstResult = s.burstResult
  burstTs : t.burstTs = s.burstTs
  crc : t.crc = s.crc
  crcValue : t.crcValue = s.crcValue
  crcResult : t.crcResult = s.crcResult
  tea : t.tea = s.tea
  teaNblk : t.teaNblk = s.teaNblk
  lk : t.lk = s.lk
  mem : t.mem = s.mem

theorem State.Agrees.refl (s : State) : s.Agrees s := by constructor <;> rfl

theorem State.Agrees.trans {s t u : State} (h : s.Agrees t) (k : t.Agrees u) : s.Agrees u where
  cmd := k.cmd.trans h.cmd
  demod := k.demod.trans h.demod
  demodOut := k.demodOut.trans h.demodOut
  symCount := k.symCount.trans h.symCount
  sync := k.sync.trans h.sync
  syncResult := k.syncResult.trans h.syncResult
  burst := k.burst.trans h.burst
  burstResult := k.burstResult.trans h.burstResult
  burstTs := k.burstTs.trans h.burstTs
  crc := k.crc.trans h.crc
  crcValue := k.crcValue.trans h.crcValue
  crcResult := k.crcResult.trans h.crcResult
  tea := k.tea.trans h.tea
  teaNblk := k.teaNblk.trans h.teaNblk
  lk := k.lk.trans h.lk
  mem := k.mem.trans h.mem

/-! ## What each command computes -/

section Computed

variable {s t : State} (h : s.Agrees t)

include h

theorem State.Agrees.demodSeq : t.demodSeq = s.demodSeq := by
  simp only [State.demodSeq, h.demod, h.mem]

theorem State.Agrees.demodPhase : t.demodPhase = s.demodPhase := by
  simp only [State.demodPhase, h.demodSeq, h.demod]

theorem State.Agrees.demodSymbols : t.demodSymbols = s.demodSymbols := by
  simp only [State.demodSymbols, h.demodSeq, h.demodPhase, h.demod]

theorem State.Agrees.syncCounts : t.syncCounts = s.syncCounts := by
  simp only [State.syncCounts, State.syncBits, State.syncLength, h.sync, h.symCount, h.mem]

theorem State.Agrees.syncFound : t.syncFound = s.syncFound := by
  simp only [State.syncFound, h.syncCounts, h.sync]

theorem State.Agrees.syncEntries : t.syncEntries = s.syncEntries := by
  simp only [State.syncEntries, h.syncFound, h.syncCounts, h.sync]

theorem State.Agrees.burstBits : t.burstBits = s.burstBits := by
  simp only [State.burstBits, h.mem, h.burst]

theorem State.Agrees.midMatch : t.midMatch = s.midMatch := by
  simp only [State.midMatch, h.burstBits, h.sync]

theorem State.Agrees.isSyncBurst : t.isSyncBurst = s.isSyncBurst := by
  simp only [State.isSyncBurst, h.midMatch, h.burst]

theorem State.Agrees.burstType : t.burstType = s.burstType := by
  simp only [State.burstType, h.isSyncBurst]

theorem State.Agrees.burstTraining : t.burstTraining = s.burstTraining := by
  simp only [State.burstTraining, h.burstBits, h.isSyncBurst]

theorem State.Agrees.burstData : t.burstData = s.burstData := by
  simp only [State.burstData, h.burstBits]

theorem State.Agrees.burstReport : t.burstReport = s.burstReport := by
  simp only [State.burstReport, h.burstData, h.crc]

theorem State.Agrees.crcInput : t.crcInput = s.crcInput := by
  simp only [State.crcInput, h.crc, h.mem]

theorem State.Agrees.crcReport : t.crcReport = s.crcReport := by
  simp only [State.crcReport, h.crcInput, h.crc]

theorem State.Agrees.newKey : t.newKey = s.newKey := by
  simp only [State.newKey, State.latchByte, h.tea]

theorem State.Agrees.teaBlocks : t.teaBlocks = s.teaBlocks := by
  simp only [State.teaBlocks, h.tea]

theorem State.Agrees.teaPlain (x : TeaTransforms) : t.teaPlain x = s.teaPlain x := by
  simp only [State.teaPlain, h.teaBlocks, h.tea, h.lk, h.mem]

end Computed

/-- The same check fails, or none. -/
theorem State.Agrees.checkOf {s t : State} (h : s.Agrees t) (i : Instr) : t.checkOf i = s.checkOf i := by
  cases i with
  | nop => rfl
  | demod => simp only [State.checkOf, State.demodCheck, h.demod]
  | sync =>
    have e : t.syncLength = s.syncLength := by simp only [State.syncLength, h.sync, h.symCount]
    simp only [State.checkOf, State.syncCheck, h.sync, h.symCount, e]
  | burst => simp only [State.checkOf, State.burstCheck, h.symCount, h.burst]
  | crcGen => simp only [State.checkOf, h.crc]
  | crcCheck => simp only [State.checkOf, h.crc]
  | teaKey => simp only [State.checkOf, State.teaKeyCheck, h.tea]
  | teaDec => simp only [State.checkOf, State.teaDecCheck, h.tea, h.lk]
  | teaBlk => simp only [State.checkOf, State.teaBlkCheck, h.tea, h.lk]

/-- The same outputs are written. -/
theorem State.Agrees.outputsOf {s t : State} (h : s.Agrees t) (i : Instr) : (s.outputsOf i).Agrees (t.outputsOf i) := by
  cases i <;> constructor <;>
    simp [State.outputsOf, h.cmd, h.demod, h.demodOut, h.symCount, h.sync, h.syncResult, h.burst, h.burstResult, h.burstTs,
      h.crc, h.crcValue, h.crcResult, h.tea, h.teaNblk, h.lk, h.mem, h.demodSeq, h.demodPhase, h.demodSymbols,
      h.syncCounts, h.syncFound, h.syncEntries, h.midMatch, h.burstType, h.burstTraining, h.burstData, h.burstReport,
      h.crcInput, h.crcReport, h.newKey, h.teaBlocks, h.teaPlain]

end Sys2Proof.Machine
end

