-- ==== Sys2Proof/Laws/Bus.lean ====
section
/-! SUPPORT. The host's side at once: the register map, what an access can do, and what an abandoned command leaves. -/

namespace Sys2Proof.Machine

/-! ## The register map -/

@[simp] theorem regAt?_offset (r : Reg) : regAt? r.offset = some r := by cases r <;> rfl

theorem regAt?_eq_some {off : Nat} {r : Reg} : regAt? off = some r ↔ off = r.offset := by
  constructor
  · intro h
    have := List.find?_some h
    simpa using (beq_iff_eq.1 this).symm
  · rintro rfl
    exact regAt?_offset r

theorem regAt?_eq_none {off : Nat} : regAt? off = none ↔ ∀ r : Reg, off ≠ r.offset := by
  constructor
  · rintro h r rfl
    simp at h
  · intro h
    match e : regAt? off with
    | none => rfl
    | some r => exact absurd (regAt?_eq_some.1 e) (h r)

theorem Reg.offset_lt (r : Reg) : r.offset < 0x100 := by cases r <;> decide

theorem Reg.offset_aligned (r : Reg) : r.offset % 4 = 0 := by cases r <;> rfl

theorem Reg.offset_inj {q r : Reg} (h : q.offset = r.offset) : q = r := by
  have := regAt?_offset q
  rw [h, regAt?_offset] at this
  exact (Option.some.inj this).symm

@[simp] theorem Reg.region (r : Reg) : regionOf r.offset = .regs := regionOf_regs.2 r.offset_lt

/-! ## Accesses -/

theorem State.performs_iff {s : State} {bytes off : Nat} :
    s.performs bytes off = true ↔ bytes = 4 ∧ off % 4 = 0 ∧ off < 0x8000 ∧ s.rstN = true := by
  simp [State.performs, and_assoc]

@[simp] theorem State.busy_iff {s : State} : s.busy = true ↔ ∃ d, s.eng = .running d := by
  unfold State.busy
  split <;> simp_all

theorem State.not_busy_iff {s : State} : s.busy = false ↔ s.eng = .idle := by
  unfold State.busy
  split <;> simp_all

theorem State.runningOp_idle {s : State} (h : s.eng = .idle) : s.runningOp = none := by
  simp [State.runningOp, State.not_busy_iff.2 h]

theorem State.runningOp_running {s : State} {d : Nat} {i : Instr} (h : s.eng = .running d) (hd : decode s.cmd = .ok i) :
    s.runningOp = some i := by
  rw [State.runningOp, if_pos (State.busy_iff.2 ⟨d, h⟩), hd]

theorem State.openMask_idle {s : State} (h : s.eng = .idle) (off : Nat) : s.openMask off = 0#32 := by
  simp [State.openMask, State.runningOp_idle h]

/-- A read answers some word, and may draw a free value; it does nothing else. -/
theorem State.hostRead_cases (s : State) (off : Nat) :
    ∃ w, s.hostRead off = s.answer (.data w) ∨ s.hostRead off = s.drawn.answer (.data w) := by
  simp only [State.hostRead]
  split
  · exact ⟨_, .inl rfl⟩
  · exact ⟨_, .inr rfl⟩

theorem State.hostRead_exact {s : State} {off : Nat} (h : s.openMask off = 0#32) :
    s.hostRead off = s.answer (.data (s.readWord off)) := by
  simp [State.hostRead, h]

/-- What a write that takes effect can do. -/
theorem State.storeWord_cases (s : State) (off : Nat) (v : Word) :
    (off = 0x004 ∧ s.storeWord off v = s.startCommand v) ∨
    (off = 0x014 ∧ v.getLsbD 0 = true ∧ s.storeWord off v = s.softReset) ∨
    (∃ r : Reg, off = r.offset ∧ r ≠ .cmd ∧ r ≠ .ctrl ∧ s.storeWord off v = s.storeReg v r) ∨
    ((regionOf off = .bitbuf ∨ regionOf off = .cin ∨ regionOf off = .symbuf ∨ regionOf off = .samples) ∧
      s.storeWord off v = s.storeBuffer off v) ∨
    s.storeWord off v = s := by
  unfold State.storeWord
  split
  · split
    · exact .inl ⟨regAt?_eq_some.1 ‹_›, rfl⟩
    · split
      · exact .inr (.inl ⟨regAt?_eq_some.1 ‹_›, ‹_›, rfl⟩)
      · exact .inr (.inr (.inr (.inr rfl)))
    · rename_i r hc ht h
      exact .inr (.inr (.inl ⟨r, regAt?_eq_some.1 h, fun e => hc e, fun e => ht e, rfl⟩))
    · exact .inr (.inr (.inr (.inr rfl)))
  all_goals simp_all

theorem State.storeWord_reg {s : State} {r : Reg} {v : Word} (hc : r ≠ .cmd) (ht : r ≠ .ctrl) :
    s.storeWord r.offset v = s.storeReg v r := by
  unfold State.storeWord
  rw [Reg.region, regAt?_offset]
  cases r <;> first | rfl | contradiction

theorem State.storeWord_cmd (s : State) (v : Word) : s.storeWord 0x004 v = s.startCommand v := rfl

theorem State.storeWord_ctrl (s : State) (v : Word) :
    s.storeWord 0x014 v = if v.getLsbD 0 then s.softReset else s := rfl

theorem State.hostWrite_dropped {s : State} {d off : Nat} (v : Word) (h : s.eng = .running d)
    (hw : writableWhileBusy off = false) :
    s.hostWrite off v = s.dropWrite.answer .accepted := by
  rw [State.hostWrite, if_pos]
  simp [hw, State.busy_iff.2 ⟨d, h⟩]

theorem State.hostWrite_performed {s : State} {off : Nat} (v : Word)
    (h : s.eng = .idle ∨ writableWhileBusy off = true) :
    s.hostWrite off v = (s.storeWord off v).answer .accepted := by
  rw [State.hostWrite, if_neg]
  rcases h with h | h
  · simp [State.not_busy_iff.2 h]
  · simp [h]

theorem writableWhileBusy_iff {off : Nat} :
    writableWhileBusy off = true ↔ off = 0x008 ∨ off = 0x00C ∨ off = 0x010 ∨ off = 0x014 := by
  simp [writableWhileBusy, or_assoc]

theorem State.hostAccess_read {s : State} {bytes off : Nat} (h : s.performs bytes off = true) :
    s.hostAccess (.read bytes off) = s.hostRead off := by
  simp [State.hostAccess, h]

theorem State.hostAccess_write {s : State} {bytes off : Nat} {v : Word} (h : s.performs bytes off = true) :
    s.hostAccess (.write bytes off v) = s.hostWrite off v := by
  simp [State.hostAccess, h]

/-- Inversion of one host access: everything it can do. -/
theorem State.hostAccess_cases (s : State) (a : Access) :
    (∃ r, s.hostAccess a = s.answer r ∨ s.hostAccess a = s.drawn.answer r) ∨
    (s.busy = true ∧ s.hostAccess a = s.dropWrite.answer .accepted) ∨
    (∃ off v, a = .write 4 off v ∧ off % 4 = 0 ∧ s.rstN = true ∧ (s.eng = .idle ∨ writableWhileBusy off = true) ∧
      s.hostAccess a = (s.storeWord off v).answer .accepted) := by
  cases a with
  | read bytes off =>
    left
    by_cases h : s.performs bytes off = true
    · rw [State.hostAccess_read h]
      obtain ⟨w, e⟩ := s.hostRead_cases off
      exact ⟨_, e⟩
    · exact ⟨.busError, .inl (by simp [State.hostAccess, h])⟩
  | write bytes off v =>
    by_cases h : s.performs bytes off = true
    · rw [State.hostAccess_write h]
      obtain ⟨rfl, ha, -, hr⟩ := State.performs_iff.1 h
      by_cases hb : s.eng = .idle ∨ writableWhileBusy off = true
      · exact .inr (.inr ⟨off, v, rfl, ha, hr, hb, State.hostWrite_performed v hb⟩)
      · rw [not_or] at hb
        have hbusy : s.busy = true := by rw [← Bool.not_eq_false, State.not_busy_iff]; exact hb.1
        obtain ⟨d, hd⟩ := State.busy_iff.1 hbusy
        exact .inr (.inl ⟨hbusy, State.hostWrite_dropped v hd (by simpa using hb.2)⟩)
    · exact .inl ⟨.busError, .inl (by simp [State.hostAccess, h])⟩

/-- A plain register write leaves these alone. -/
theorem State.storeReg_keeps (s : State) (v : Word) (r : Reg) :
    (s.storeReg v r).cmd = s.cmd ∧ (s.storeReg v r).errInfo = s.errInfo ∧ (s.storeReg v r).demodOut = s.demodOut ∧
    (s.storeReg v r).syncResult = s.syncResult ∧ (s.storeReg v r).burstResult = s.burstResult ∧
    (s.storeReg v r).burstTs = s.burstTs ∧ (s.storeReg v r).crcValue = s.crcValue ∧
    (s.storeReg v r).crcResult = s.crcResult ∧ (s.storeReg v r).teaNblk = s.teaNblk ∧ (s.storeReg v r).lk = s.lk ∧
    (s.storeReg v r).eng = s.eng ∧ (s.storeReg v r).mem = s.mem ∧ (s.storeReg v r).rstN = s.rstN ∧
    (s.storeReg v r).inputs = s.inputs ∧ (s.storeReg v r).response = s.response ∧
    (s.storeReg v r).draws = s.draws ∧
    (s.storeReg v r).status = { s.status with wbusy := (s.storeReg v r).status.wbusy } := by
  cases r <;> exact ⟨rfl, rfl, rfl, rfl, rfl, rfl, rfl, rfl, rfl, rfl, rfl, rfl, rfl, rfl, rfl, rfl, rfl⟩

/-! ## What an abandoned command leaves -/

theorem mem_wordsAt {base n a : Nat} : a ∈ wordsAt base n ↔ ∃ k, k < n ∧ a = base + 4 * k := by
  simp [wordsAt, eq_comm]

/-- The output words of a command lie in its own buffer. -/
theorem State.outputWords_inside {s : State} {i : Instr} {a c : Nat} (h : a ∈ s.outputWords i) (h1 : a ≤ c)
    (h2 : c < a + 4) : ownBuffer i (regionOf c) := by
  cases i with
  | demod =>
    obtain ⟨k, hk, rfl⟩ := mem_wordsAt.1 h
    simp only [ownBuffer, regionOf_symbuf, symbufBase] at *
    split at hk
    · have := (s.demodCheck_eq_none.1 ‹_›).2
      have := s.length_demodSymbols_le
      simp only [symWords] at hk
      omega
    · simp only [Config.symCap] at hk
      omega
  | sync =>
    obtain ⟨k, hk, rfl⟩ := mem_wordsAt.1 h
    have := s.length_syncEntries_le
    simp only [ownBuffer, regionOf_syncOut, syncOutBase, Config.syncCap] at *
    split at hk <;> omega
  | burst =>
    obtain ⟨k, hk, rfl⟩ := mem_wordsAt.1 h
    simp only [ownBuffer, regionOf_bitbuf, bitbufBase] at *
    omega
  | teaDec =>
    obtain ⟨k, hk, rfl⟩ := mem_wordsAt.1 h
    simp only [ownBuffer, regionOf_cout, coutBase, Config.cbufCap] at *
    omega
  | teaBlk =>
    obtain ⟨k, hk, rfl⟩ := mem_wordsAt.1 h
    simp only [ownBuffer, regionOf_cout, coutBase] at *
    omega
  | nop => simp [State.outputWords] at h
  | crcGen => simp [State.outputWords] at h
  | crcCheck => simp [State.outputWords] at h
  | teaKey => simp [State.outputWords] at h

theorem Memory.Stable.scramble {ok : Nat → Prop} {P : Memory → Prop} (st : Memory.Stable ok P) (draw : Nat)
    (as : List Nat) : ∀ {m : Memory}, (∀ a ∈ as, ∀ c, a ≤ c → c < a + 4 → ok c) → P m → P (m.scramble draw as) := by
  induction as with
  | nil => exact fun _ h => h
  | cons a as ih =>
    intro m ha h
    exact ih (fun b hb => ha b (List.mem_cons_of_mem _ hb)) (st.setWord _ (ha a (List.mem_cons_self ..)) h)

theorem Memory.wf_scramble {m : Memory} (h : m.wf = true) (draw : Nat) (as : List Nat) : (m.scramble draw as).wf = true :=
  (Memory.Stable.wf fun _ => True).scramble draw as (fun _ _ _ _ _ => trivial) h

/-- Free values in some words leave every other byte alone. -/
theorem Memory.byte_scramble (m : Memory) (draw : Nat) (as : List Nat) (c : Nat) (h : ∀ a ∈ as, c < a ∨ a + 4 ≤ c) :
    (m.scramble draw as).byte c = m.byte c :=
  (Memory.Stable.byte (ok := fun b => b ≠ c) m c (by simp)).scramble draw as
    (fun a ha b h1 h2 => by rcases h a ha with h | h <;> omega) rfl

/-- Abandoning a command leaves every byte outside its output words alone, all of them when it is the illegal one. -/
theorem State.byte_abandonedMem {s : State} {i : Instr} (hd : decode s.cmd = .ok i) (c : Nat)
    (h : ∀ a ∈ s.outputWords i, c < a ∨ a + 4 ≤ c) : s.abandonedMem.byte c = s.mem.byte c := by
  unfold State.abandonedMem State.runningOp
  split
  · rfl
  · rename_i j hj
    split at hj
    · rw [hd] at hj
      cases hj
      exact Memory.byte_scramble _ _ _ _ h
    · cases hj

theorem State.runningOp_illegal {s : State} {e : DecodeError} (h : decode s.cmd = .error e) : s.runningOp = none := by
  simp [State.runningOp, h]

theorem State.abandonedMem_illegal {s : State} {e : DecodeError} (h : decode s.cmd = .error e) :
    s.abandonedMem = s.mem := by
  simp [State.abandonedMem, State.runningOp_illegal h]

theorem State.openMask_illegal {s : State} {e : DecodeError} (h : decode s.cmd = .error e) (off : Nat) :
    s.openMask off = 0#32 := by
  simp [State.openMask, State.runningOp_illegal h]

/-- A property that a byte written into the running command's own buffer keeps survives its being abandoned. -/
theorem State.abandonedMem_stable {P : Memory → Prop} {s : State}
    (st : ∀ i, s.runningOp = some i → Memory.Stable (fun a => ownBuffer i (regionOf a)) P) (h : P s.mem) :
    P s.abandonedMem := by
  unfold State.abandonedMem
  split
  · exact h
  · rename_i i hi
    exact (st i hi).scramble _ _ (fun _ ha _ h1 h2 => State.outputWords_inside ha h1 h2) h

theorem State.abandonedMem_idle {s : State} (h : s.eng = .idle) : s.abandonedMem = s.mem := by
  simp [State.abandonedMem, State.runningOp_idle h]

end Sys2Proof.Machine
end

