-- ==== Sys2Proof/Laws/PerInstr.lean ====
section
/-! SUPPORT. Per-instruction laws: the family RoundTrip, one lemma per constructor of `Instr`. -/

namespace Sys2Proof.Laws.RoundTrip

/-- The instruction is well formed, its word is a well-formed command word, and the decoder reads it back from that word
and from the word's bytes as the bus lays them out. -/
def Statement (i : Instr) : Prop :=
  i.wellFormed = true ∧ wordWellFormed (encode i) = true ∧ decode (encode i) = .ok i ∧
    decodeBytes (wordBytes (encode i)) = .ok i

theorem nop : Statement .nop := by unfold Statement; decide

theorem demod : Statement .demod := by unfold Statement; decide

theorem sync : Statement .sync := by unfold Statement; decide

theorem burst : Statement .burst := by unfold Statement; decide

theorem crcGen : Statement .crcGen := by unfold Statement; decide

theorem crcCheck : Statement .crcCheck := by unfold Statement; decide

theorem teaKey : Statement .teaKey := by unfold Statement; decide

theorem teaDec : Statement .teaDec := by unfold Statement; decide

theorem teaBlk : Statement .teaBlk := by unfold Statement; decide

end Sys2Proof.Laws.RoundTrip
end

