-- ==== Sys2Proof/Laws/Step.lean ====
section
/-! SUPPORT. The step at once: whose turn it is and what that turn can do. -/

namespace Sys2Proof.Machine

theorem step_command {s : State} {i : Instr} (hr : s.rstN = true) (he : s.eng = .running 0)
    (hd : decode s.cmd = .ok i) : step s = exec i s := by
  simp [step, State.turn, hr, he, State.fetch, hd]

/-- `step` is the machine of given transforms at the spec's defaults. -/
theorem step_eq_stepWith (s : State) : step s = stepWith .defaults s := by
  simp only [step, stepWith]
  cases s.turn with
  | host => rfl
  | command i => exact exec_eq_execWith i s
  | illegal => rfl

theorem stepWith_command {x : TeaTransforms} {s : State} {i : Instr} (hr : s.rstN = true) (he : s.eng = .running 0)
    (hd : decode s.cmd = .ok i) : stepWith x s = execWith x i s := by
  simp [stepWith, State.turn, hr, he, State.fetch, hd]

theorem step_illegal {s : State} {e : DecodeError} (hr : s.rstN = true) (he : s.eng = .running 0)
    (hd : decode s.cmd = .error e) : step s = .next s.completeIllegal := by
  simp [step, State.turn, hr, he, State.fetch, hd, runIllegal]

theorem step_host {s : State} (h : s.eng = .idle ∨ (∃ d, s.eng = .running (d + 1)) ∨ s.rstN = false) :
    step s = .next s.hostTurn := by
  rcases h with h | ⟨d, h⟩ | h <;> simp [step, State.turn, h, runHost]

/-- Inversion of `step`: the completion of a command, of an illegal command, or a turn of the outside world. -/
theorem step_cases {s t : State} (h : step s = .next t) :
    (s.rstN = true ∧ s.eng = .running 0 ∧ ∃ i, decode s.cmd = .ok i ∧ exec i s = .next t) ∨
    (s.rstN = true ∧ s.eng = .running 0 ∧ (∃ e, decode s.cmd = .error e) ∧ t = s.completeIllegal) ∨
    ((s.eng = .idle ∨ (∃ d, s.eng = .running (d + 1)) ∨ s.rstN = false) ∧ t = s.hostTurn) := by
  by_cases hh : s.eng = .idle ∨ (∃ d, s.eng = .running (d + 1)) ∨ s.rstN = false
  · rw [step_host hh] at h
    exact .inr (.inr ⟨hh, by cases h; rfl⟩)
  · simp only [not_or, not_exists, Bool.not_eq_false] at hh
    obtain ⟨h1, h2, hr⟩ := hh
    have he : s.eng = .running 0 := by
      match e : s.eng with
      | .idle => exact absurd e h1
      | .running 0 => rfl
      | .running (d + 1) => exact absurd e (h2 d)
    match hd : decode s.cmd with
    | .ok i =>
      rw [step_command hr he hd] at h
      exact .inl ⟨hr, he, i, rfl, h⟩
    | .error e =>
      rw [step_illegal hr he hd] at h
      exact .inr (.inl ⟨hr, he, ⟨e, rfl⟩, by cases h; rfl⟩)

/-- Inversion of a turn of the outside world: the engine counts down, then the next input, if one is due, takes effect. -/
theorem State.hostTurn_cases (s : State) :
    (s.inputs = [] ∧ s.hostTurn = s.waited []) ∨
    ∃ x rest, s.inputs = x :: rest ∧ s.hostTurn = (s.waited rest).applyInput x := by
  unfold State.hostTurn
  split
  · exact .inl ⟨‹_›, rfl⟩
  · exact .inr ⟨_, _, ‹_›, rfl⟩

@[simp] theorem Engine.tick_idle : Engine.idle.tick = .idle := rfl

@[simp] theorem Engine.tick_succ (d : Nat) : (Engine.running (d + 1)).tick = .running d := rfl

theorem Engine.tick_eq_idle {e : Engine} : e.tick = .idle ↔ e = .idle := by
  unfold Engine.tick
  split <;> simp

end Sys2Proof.Machine
end

