-- ==== Sys2Proof/Tests/Slice0.lean ====
section
/-! SUPPORT. The model's own tests: the checks on command words, the decoder on words written out from 30_encoding.md R102,
one or two vectors of 95_test_vectors.md for each command, and a witness for the hypotheses of every obligation. -/

namespace Sys2Proof.Tests

open Sys2Proof.Machine Sys2Proof.Spec

/-! ## Command words (30_encoding.md R100 to R103) -/

theorem test_reserved_bit_refused : reservedBitsClear 0x00000101#32 = false := by decide

theorem test_unassigned_opcode_refused : opcodeAssigned 0x00000009#32 = false := by decide

theorem test_ill_formed_words_refused :
    wordWellFormed 0x00000101#32 = false ∧ wordWellFormed 0x00000009#32 = false ∧
      wordWellFormed 0x00000008#32 = true := by decide

theorem test_decode_nop : decode 0b00000000000000000000000000000000#32 = .ok .nop := by decide

theorem test_decode_demod : decode 0b00000000000000000000000000000001#32 = .ok .demod := by decide

theorem test_decode_sync : decode 0b00000000000000000000000000000010#32 = .ok .sync := by decide

theorem test_decode_burst : decode 0b00000000000000000000000000000011#32 = .ok .burst := by decide

theorem test_decode_crcGen : decode 0b00000000000000000000000000000100#32 = .ok .crcGen := by decide

theorem test_decode_crcCheck : decode 0b00000000000000000000000000000101#32 = .ok .crcCheck := by decide

theorem test_decode_teaKey : decode 0b00000000000000000000000000000110#32 = .ok .teaKey := by decide

theorem test_decode_teaDec : decode 0b00000000000000000000000000000111#32 = .ok .teaDec := by decide

theorem test_decode_teaBlk : decode 0b00000000000000000000000000001000#32 = .ok .teaBlk := by decide

theorem test_decode_illegal :
    decode 0x00000101#32 = .error .reservedBitsSet ∧ decode 0x00000009#32 = .error .unassignedOpcode ∧
      decode 0x000000FF#32 = .error .unassignedOpcode ∧ decode 0x80000000#32 = .error .reservedBitsSet := by decide

/-- Little-endian bytes, and no other number of bytes than four (20_memory.md R74, 30_encoding.md R100, R105). -/
theorem test_decode_bytes :
    decodeBytes [0x02#8, 0x00#8, 0x00#8, 0x00#8] = .ok .sync ∧
      decodeBytes [0x00#8, 0x00#8, 0x00#8, 0x02#8] = .error .reservedBitsSet ∧
      decodeBytes [0x02#8] = .error .notOneWord := by decide

theorem test_decode_table_word :
    decodeTableWord 32 8 = some .teaBlk ∧ decodeTableWord 8 8 = some .teaBlk ∧ decodeTableWord 32 9 = none := by decide

/-! ## Small states -/

/-- After reset, with words written from a byte offset on. -/
def loaded (base : Nat) (ws : List Word) : State :=
  { State.reset with mem := State.reset.mem.setWords base ws }

/-- The same with the first word of SYMBUF written as 0, so that a symbol written there can be evaluated. -/
def sampled (ws : List Word) : State :=
  { State.reset with mem := (State.reset.mem.setWords samplesBase ws).setWords symbufBase [0#32] }

/-- After reset, with inputs still to come. -/
def due (xs : List Input) : State := { State.reset with inputs := xs }

/-- A running command with a delay. -/
def running (w : Word) (d : Nat) : State := State.reset.start w d

/-- With a latched all-zero key of an algorithm code and a length. -/
def keyed (s : State) (alg : BitVec 3) (len : BitVec 8) : State :=
  { s with lk := { LatchedKey.cleared with valid := true, alg := alg, len := len } }

/-- Whether a command answers a next state with a property. -/
def ends (i : Instr) (s : State) (p : State → Bool) : Bool :=
  match exec i s with
  | .next t => p t
  | .fault _ => false
  | .refused _ => false

/-! ## The commands on vectors of 95_test_vectors.md -/

/-- Vector G3. -/
theorem test_nop :
    ends .nop (running 0#32 0)
      (fun t => t.readReg .status == 0x00000002#32 && t.readReg .irqStatus == 0x1#32) = true := by decide

/-- Vector D12: four quadrants in order. -/
theorem test_demod_quadrants :
    ends .demod
      { sampled [0x000003E8#32, 0x02C302C3#32, 0x0000FC18#32, 0x02C3FD3D#32, 0x000003E8#32] with
        demod := { sps := 1#8, feEn := false, nsamp := 5#13 } }
      (fun t => (List.range 4).map t.mem.sym == [0#2, 1#2, 2#2, 3#2] && t.symCount == 4#13) = true := by decide +kernel

/-- Vector D10: the later phase has the greater average power. -/
theorem test_demod_phase :
    ends .demod
      { sampled [10#32, 20#32, 10#32, 20#32, 10#32] with demod := { sps := 2#8, feEn := false, nsamp := 5#13 } }
      (fun t => t.readReg .demodPhase == 1#32 && t.readReg .symCount == 1#32 && t.mem.sym 0 == 0#2) = true := by
  decide +kernel

/-- Vector Y4: three errors are found in pass 1. -/
theorem test_sync_second_pass :
    ends .sync { loaded symbufBase [0#32, 0x0054C9D0#32, 0#32, 0#32] with symCount := 64#13 }
      (fun t => t.readReg .syncResult == 0x00011301#32 && t.mem.syncOut 0 == 0x00130028#32) = true := by decide +kernel

/-- Vector Y6: the adaptive pass records the first offset at its threshold. -/
theorem test_sync_adaptive :
    ends .sync { loaded symbufBase [0#32, 0x0054C8D8#32, 0#32, 0#32] with symCount := 64#13 }
      (fun t => t.readReg .syncResult == 0x00031101#32 && t.mem.syncOut 0 == 0x00110021#32) = true := by decide +kernel

/-- The symbol words of vector B1, words 7 and 8 given. -/
def burstWords (w7 w8 : Word) : List Word :=
  [0x00010203#32, 0x04050607#32, 0x08090A0B#32, 0x0C067A74#32, 0x383C4044#32, 0x484C5054#32, 0x585C6026#32, w7, w8,
   0#32, 0#32, 0#32, 0#32, 0#32, 0#32, 0#32]

/-- Vector B1. -/
theorem test_burst_normal :
    ends .burst { loaded symbufBase (burstWords 0xE0000000#32 0#32) with symCount := 256#13 }
      (fun t => t.readReg .burstResult == 0x000B0E09#32 && t.readReg .burstTs == 0x000019E9#32 &&
        t.readReg .crcResult == 0x09B80401#32) = true := by decide +kernel

/-- Vector B2. -/
theorem test_burst_sync :
    ends .burst { loaded symbufBase (burstWords 0xE0000D0E#32 0x9D000000#32) with symCount := 256#13 }
      (fun t => t.readReg .burstResult == 0x0016160C#32 && t.readReg .burstTs == 0x0019E9D0#32) = true := by
  decide +kernel

/-- Vector C1. -/
theorem test_crc_gen :
    ends .crcGen
      { loaded bitbufBase [0x31323334#32, 0x35363738#32, 0x39000000#32] with crc := { nbits := 72#11, maxHd := 2#5 } }
      (fun t => t.readReg .crcValue == 0xE15E29B1#32) = true := by decide +kernel

/-- Vector C10: the reversed order passes. -/
theorem test_crc_check_reversed :
    ends .crcCheck
      { loaded bitbufBase [0x00010203#32, 0x04050607#32, 0x08090A0B#32, 0x0C0D0E0F#32, 0x10111213#32, 0x14151617#32,
          0x1816F200#32] with crc := { nbits := 216#11, maxHd := 2#5 } }
      (fun t => t.readReg .crcResult == 0x16F20023#32) = true := by decide +kernel

/-- Vector K4. -/
theorem test_tea_key :
    ends .teaKey { State.reset with tea := { State.reset.tea with alg := 3#3, keyLen := 16#8 } }
      (fun t => t.readReg .teaState == 0x00001007#32) = true := by decide +kernel

/-- Vector K6: the algorithm is checked before the length. -/
theorem test_tea_key_unknown :
    ends .teaKey { running 6#32 0 with tea := { State.reset.tea with alg := 5#3, keyLen := 3#8 } }
      (fun t => t.readReg .errInfo == 5#32 && t.readReg .status == 0x00060302#32) = true := by decide +kernel

/-- The state of vectors T6 and T7 with a mode. -/
def chained (cbc : Bool) : State :=
  { loaded cinBase [0x0A3F3847#32, 0xCBF48573#32, 0x9F66299A#32, 0xCA51BDF4#32] with
    tea := { State.reset.tea with cbc := cbc, iv0 := 0xA3A2A1A0#32, iv1 := 0xA7A6A5A4#32, len := 16#10 }
    lk :=
      { valid := true, alg := 1#3, len := 16#8
        bytes := #v[0#8, 1#8, 2#8, 3#8, 4#8, 5#8, 6#8, 7#8, 8#8, 9#8, 10#8, 11#8, 12#8, 13#8, 14#8, 15#8] } }

/-- Vector T6. -/
theorem test_tea_dec_cbc :
    ends .teaDec (chained true)
      (fun t => t.mem.word (coutBase + 8) == 0x04030201#32 && t.mem.word (coutBase + 12) == 0x08070605#32 &&
        t.readReg .teaNblk == 2#32) = true := by decide +kernel

/-- Vector T7. -/
theorem test_tea_dec_ecb :
    ends .teaDec (chained false)
      (fun t => t.mem.word coutBase == 0xA3A2A1A0#32 && t.mem.word (coutBase + 12) == 0xC3F38376#32) = true := by
  decide +kernel

/-- Vector T3: TEA1, whose key words are 16 bits. -/
theorem test_tea_blk_tea1 :
    ends .teaBlk
      { loaded cinBase [0xE93C646E#32, 0xDF970CFE#32] with
        tea := { State.reset.tea with len := 8#10 }
        lk :=
          { valid := true, alg := 0#3, len := 10#8
            bytes := #v[0x01#8, 0x23#8, 0x45#8, 0x67#8, 0x89#8, 0xAB#8, 0xCD#8, 0xEF#8, 0x01#8, 0x23#8, 0#8, 0#8, 0#8,
              0#8, 0#8, 0#8] } }
      (fun t => t.mem.word coutBase == 0x33221100#32 && t.mem.word (coutBase + 4) == 0x77665544#32) = true := by
  decide +kernel

/-- Vector K9. -/
theorem test_tea_blk_size :
    ends .teaBlk (keyed { running 8#32 0 with tea := { State.reset.tea with len := 16#10 } } 1#3 16#8)
      (fun t => t.readReg .errInfo == 16#32 && t.readReg .status == 0x00080502#32) = true := by decide +kernel

/-! ## Witnesses: for each obligation with hypotheses, states and operands that meet them, at the ends of their ranges -/

/-- Whether a step answers a next state with a property. -/
def stepEnds (s : State) (p : State → Bool) : Bool :=
  match step s with
  | .next t => p t
  | .fault _ => false
  | .refused _ => false

theorem witness_StepRunsTheDecodedCommand :
    (State.reset.withFetchWord 32 1).rstN = true ∧ (State.reset.withFetchWord 32 1).eng = .running 0 ∧
      decode (State.reset.withFetchWord 32 1).cmd = .ok .demod := by decide

theorem witness_IllegalCommandCompletesBadCommand :
    ((running 0x00000009#32 0).rstN = true ∧ (running 0x00000009#32 0).eng = .running 0 ∧
      0x09 ≤ ((running 0x00000009#32 0).cmd.extractLsb' 0 8).toNat) ∧
    ((running 0x00000100#32 0).rstN = true ∧ (running 0x00000100#32 0).eng = .running 0 ∧
      (running 0x00000100#32 0).cmd.extractLsb' 8 24 ≠ 0#24) ∧
    ((due [.access (.write 4 0x004 0xFFFFFFFF#32), .idle]).eng = .idle ∧
      (due [.access (.write 4 0x004 0xFFFFFFFF#32), .idle]).rstN = true ∧
      (0xFFFFFFFF#32).extractLsb' 8 24 ≠ 0#24 ∧ ∀ x ∈ [Input.idle], harmless x) :=
  ⟨by decide, by decide, rfl, rfl, by decide, by simp [harmless]⟩

theorem witness_OutsideWorldMovesOtherwise :
    (State.reset.eng = .idle ∧ State.reset.inputs = []) ∧ (running 1#32 1).eng = .running (0 + 1) ∧
      ({ running 1#32 0 with rstN := false } : State).rstN = false ∧
      (due [.idle]).inputs = .idle :: [] ∧
      (due [.access (.read 4 0x008), .idle]).inputs = .access (.read 4 0x008) :: [.idle] ∧
      (due [.assertReset, .releaseReset]).inputs = .assertReset :: [.releaseReset] ∧
      (due [.releaseReset]).inputs = .releaseReset :: [] := by decide

theorem witness_CmdWriteStartsTheCommand :
    (due [.access (.write 4 0x004 1#32)]).eng = .idle ∧ (due [.access (.write 4 0x004 1#32)]).rstN = true ∧
      (due [.access (.write 4 0x004 1#32)]).inputs = .access (.write 4 0x004 1#32) :: [] := by decide

theorem witness_CommandsStartExactlyAtCmdWritesWhileIdle :
    (∃ t, step (due [.idle]) = .next t ∧ (due [.idle]).eng = .idle) ∧
      (running 1#32 0).eng = .running 0 ∧ (running 1#32 0).rstN = true :=
  ⟨⟨_, rfl, rfl⟩, rfl, rfl⟩

theorem witness_FailedCommandLeavesEveryOutput :
    (running 7#32 0).rstN = true ∧ (running 7#32 0).eng = .running 0 ∧
      stepEnds (running 7#32 0) (fun t => t.status.code == 0x06#8) = true := by decide

theorem witness_EachCommandWritesOnlyItsOwnOutputs :
    ∃ t, exec .nop State.reset = .next t ∧ Instr.nop ≠ .demod ∧ Instr.nop ≠ .sync ∧ Instr.nop ≠ .burst ∧
      Instr.nop ≠ .crcGen ∧ Instr.nop ≠ .crcCheck ∧ Instr.nop ≠ .teaKey ∧ Instr.nop ≠ .teaDec ∧ Instr.nop ≠ .teaBlk :=
  ⟨_, rfl, by decide⟩

theorem witness_EachCommandWritesOnlyItsOwnBuffer :
    ∃ t, exec .demod State.reset = .next t ∧ regionOf 0x07FF ≠ .symbuf ∧ regionOf 0x0C00 ≠ .symbuf :=
  ⟨_, rfl, by decide⟩

theorem witness_WaitingDoesNotChangeTheResult :
    ({ running 1#32 1 with inputs := [.access (.write 4 0x0800 5#32)] } : State).eng = .running (0 + 1) ∧
      ∀ x ∈ [Input.access (.write 4 0x0800 5#32)].head?, harmless x :=
  ⟨rfl, by simp [harmless]⟩

theorem witness_StartedCommandCompletes :
    ({ running 1#32 2 with inputs := [.idle, .idle, .assertReset] } : State).rstN = true ∧
      ({ running 1#32 2 with inputs := [.idle, .idle, .assertReset] } : State).eng = .running 2 ∧
      ∀ x ∈ [Input.idle, .idle, .assertReset].take 2, harmless x :=
  ⟨rfl, rfl, by simp [harmless]⟩

theorem witness_CommandRunsFromItsWriteToItsResult :
    (due [.access (.write 4 0x004 (encode .teaBlk)), .access (.read 4 0x008)]).eng = .idle ∧
      (due [.access (.write 4 0x004 (encode .teaBlk)), .access (.read 4 0x008)]).rstN = true ∧
      ∀ x ∈ [Input.access (.read 4 0x008)], harmless x :=
  ⟨rfl, rfl, by simp [harmless]⟩

theorem witness_NopCompletesOk :
    (running 0#32 0).status.op = 0x00#8 ∧ (running 0#32 0).status.wbusy = false := by decide

/-- With the demodulator's operands. -/
def demodWith (sps : BitVec 8) (feEn : Bool) (nsamp : BitVec 13) : State :=
  { State.reset with demod := { sps := sps, feEn := feEn, nsamp := nsamp } }

theorem witness_DemodRefusesBadConfiguration :
    (demodWith 0#8 true 8191#13).demod.sps.toNat = 0 ∧
      (demodWith 1#8 true 4097#13).demod.sps.toNat ≠ 0 ∧ 4096 < (demodWith 1#8 true 4097#13).demod.nsamp.toNat := by
  decide

theorem witness_DemodWritesTheSymbolsOfTheBestPhase :
    ((demodWith 1#8 true 0#13).demod.sps.toNat ≠ 0 ∧ (demodWith 1#8 true 0#13).demod.nsamp.toNat ≤ 4096) ∧
      (demodWith 255#8 false 4096#13).demod.sps.toNat ≠ 0 ∧
      (demodWith 255#8 false 4096#13).demod.nsamp.toNat ≤ 4096 := by decide

theorem witness_DemodOfAtMostOneSampleIsEmpty :
    (demodWith 13#8 true 0#13).demod.sps.toNat ≠ 0 ∧ (demodWith 13#8 true 0#13).demod.nsamp.toNat ≤ 1 ∧
      (demodWith 1#8 true 1#13).demod.nsamp.toNat ≤ 1 := by decide

theorem witness_DemodOfSilenceIsAllZeroSymbols :
    ∃ s : State, s.demod.sps.toNat ≠ 0 ∧ 0 < s.demod.nsamp.toNat ∧ s.demod.nsamp.toNat ≤ 4096 ∧ s.demod.feEn = false ∧
      ∀ k, k < s.demod.nsamp.toNat → s.mem.sample k = { re := 0, im := 0 } :=
  ⟨{ sampled [0#32, 0#32] with demod := { sps := 1#8, feEn := false, nsamp := 2#13 } }, by decide +kernel⟩

theorem witness_DemodIgnoresPositiveScaling : (0 : Int) < 1 := by decide

/-- With the synchronizer's operands; the pattern registers, thresholds, floor and margin as after reset. -/
def syncWith (count : BitVec 13) (skip : BitVec 16) (start : BitVec 14) : State :=
  { State.reset with symCount := count, sync := { State.reset.sync with skip := skip, start := start } }

theorem witness_SyncRefusesBadConfigurationOrShortInput :
    4096 < (syncWith 4097#13 0#16 0#14).symCount.toNat ∧
    ((syncWith 4096#13 0#16 0#14).symCount.toNat ≤ 4096 ∧ (syncWith 4096#13 0#16 0#14).sync.skip.toNat = 0) ∧
    ((syncWith 11#13 1#16 1#14).symCount.toNat ≤ 4096 ∧ (syncWith 11#13 1#16 1#14).sync.skip.toNat ≠ 0 ∧
      2 * (syncWith 11#13 1#16 1#14).symCount.toNat < (syncWith 11#13 1#16 1#14).sync.start.toNat + 22) := by decide

theorem witness_SyncRecordsThePositionsOfTheFirstPassThatFindsAny :
    ((syncWith 11#13 1#16 0#14).symCount.toNat ≤ 4096 ∧ (syncWith 11#13 1#16 0#14).sync.skip.toNat ≠ 0 ∧
      (syncWith 11#13 1#16 0#14).sync.start.toNat + 22 ≤ 2 * (syncWith 11#13 1#16 0#14).symCount.toNat) ∧
    ((syncWith 4096#13 65535#16 8170#14).symCount.toNat ≤ 4096 ∧ (syncWith 4096#13 65535#16 8170#14).sync.skip.toNat ≠ 0 ∧
      (syncWith 4096#13 65535#16 8170#14).sync.start.toNat + 22 ≤
        2 * (syncWith 4096#13 65535#16 8170#14).symCount.toNat) := by decide

/-- Eleven symbols that hold TS1 with some of its bits flipped: one offset. -/
def flipped (bits : BitVec 22) : State :=
  { loaded symbufBase [(0x343A74#22 ^^^ bits).setWidth 32 <<< 10] with symCount := 11#13 }

theorem witness_SyncPassFollowsTheBestCountAtResetThresholds :
    ((flipped 0#22).symCount.toNat ≤ 4096 ∧ (flipped 0#22).sync.skip.toNat ≠ 0 ∧
      (flipped 0#22).sync.start.toNat + 22 ≤ 2 * (flipped 0#22).symCount.toNat ∧
      (flipped 0#22).sync = { State.reset.sync with
        thr0 := 900#16, thr1 := 850#16, thr2 := 800#16, floor := 750#16, margin := 20#16 }) ∧
    ends .sync (flipped 0x000000#22) (fun t => t.syncResult.best == 22#5) = true ∧
    ends .sync (flipped 0x200001#22) (fun t => t.syncResult.best == 20#5) = true ∧
    ends .sync (flipped 0x200003#22) (fun t => t.syncResult.best == 19#5) = true ∧
    ends .sync (flipped 0x300003#22) (fun t => t.syncResult.best == 18#5) = true ∧
    ends .sync (flipped 0x300007#22) (fun t => t.syncResult.best == 17#5) = true ∧
    ends .sync (flipped 0x380007#22) (fun t => t.syncResult.best == 16#5) = true := by decide +kernel

/-- With the burst parser's operands. -/
def burstWith (count : BitVec 13) (start : BitVec 14) : State :=
  { State.reset with symCount := count, burst := { State.reset.burst with start := start } }

theorem witness_BurstRefusesBadConfigurationOrShortInput :
    4096 < (burstWith 4097#13 0#14).symCount.toNat ∧ (burstWith 255#13 1#14).symCount.toNat ≤ 4096 ∧
      2 * (burstWith 255#13 1#14).symCount.toNat < (burstWith 255#13 1#14).burst.start.toNat + 510 := by decide

theorem witness_BurstSplitsTheBurstAndChecksItsCrc :
    ((burstWith 255#13 0#14).symCount.toNat ≤ 4096 ∧
      (burstWith 255#13 0#14).burst.start.toNat + 510 ≤ 2 * (burstWith 255#13 0#14).symCount.toNat) ∧
    (burstWith 4096#13 7682#14).symCount.toNat ≤ 4096 ∧
      (burstWith 4096#13 7682#14).burst.start.toNat + 510 ≤ 2 * (burstWith 4096#13 7682#14).symCount.toNat := by decide

/-- With the CRC commands' length. -/
def crcWith (n : BitVec 11) : State := { State.reset with crc := { nbits := n, maxHd := 2#5 } }

theorem witness_CrcGenWritesBothCrcs :
    1024 < (crcWith 1025#11).crc.nbits.toNat ∧ (crcWith 1024#11).crc.nbits.toNat ≤ 1024 ∧
      (crcWith 0#11).crc.nbits.toNat ≤ 1024 := by decide

theorem witness_CrcCheckReportsBothOrders :
    1024 < (crcWith 1025#11).crc.nbits.toNat ∧ (crcWith 15#11).crc.nbits.toNat < 16 ∧
      (16 ≤ (crcWith 16#11).crc.nbits.toNat ∧ (crcWith 16#11).crc.nbits.toNat ≤ 1024) ∧
      (16 ≤ (crcWith 1024#11).crc.nbits.toNat ∧ (crcWith 1024#11).crc.nbits.toNat ≤ 1024) := by decide

theorem witness_CrcRoundTripCountsExactlyTheFlippedBits : ones16 0#16 ≤ 0 ∧ ones16 0x8001#16 ≤ 2 := by decide

/-- With the operands of TEA_KEY. -/
def keyWith (alg : BitVec 3) (len : BitVec 8) : State :=
  { State.reset with tea := { State.reset.tea with alg := alg, keyLen := len } }

theorem witness_TeaKeyRefusesUnknownAlgorithmsAndWrongLengths :
    4 ≤ (keyWith 4#3 10#8).tea.alg.toNat ∧
    ((keyWith 0#3 9#8).tea.alg.toNat = 0 ∧ (keyWith 0#3 9#8).tea.keyLen.toNat ≠ 10) ∧
    (1 ≤ (keyWith 1#3 15#8).tea.alg.toNat ∧ (keyWith 1#3 15#8).tea.alg.toNat ≤ 3 ∧
      (keyWith 1#3 15#8).tea.keyLen.toNat ≠ 16) ∧
    (1 ≤ (keyWith 3#3 17#8).tea.alg.toNat ∧ (keyWith 3#3 17#8).tea.alg.toNat ≤ 3 ∧
      (keyWith 3#3 17#8).tea.keyLen.toNat ≠ 16) := by decide

theorem witness_TeaKeyLatchesTheKey :
    ((keyWith 0#3 10#8).tea.alg.toNat = 0 ∧ (keyWith 0#3 10#8).tea.keyLen.toNat = 10) ∧
    (1 ≤ (keyWith 3#3 16#8).tea.alg.toNat ∧ (keyWith 3#3 16#8).tea.alg.toNat ≤ 3 ∧
      (keyWith 3#3 16#8).tea.keyLen.toNat = 16) := by decide

/-- With a latched TEA2 key of zero bytes and a data length. -/
def decWith (len : BitVec 10) : State :=
  keyed { State.reset with tea := { State.reset.tea with len := len } } 1#3 16#8

theorem witness_TeaDecRefusesMissingKeysAndBadLengths :
    State.reset.lk.valid = false ∧
    ((decWith 513#10).lk.valid = true ∧ 512 < (decWith 513#10).tea.len.toNat) ∧
    ((decWith 511#10).lk.valid = true ∧ (decWith 511#10).tea.len.toNat ≤ 512 ∧
      (decWith 511#10).tea.len.toNat % 8 ≠ 0) := by decide

theorem witness_TeaDecWritesEcbOrCbcPlaintext :
    ((decWith 0#10).lk.valid = true ∧ (decWith 0#10).tea.len.toNat ≤ 512 ∧ (decWith 0#10).tea.len.toNat % 8 = 0) ∧
    ((decWith 512#10).lk.valid = true ∧ (decWith 512#10).tea.len.toNat ≤ 512 ∧
      (decWith 512#10).tea.len.toNat % 8 = 0) := by decide

theorem witness_TeaBlkDecryptsOneBlock :
    State.reset.lk.valid = false ∧ ((decWith 7#10).lk.valid = true ∧ (decWith 7#10).tea.len.toNat ≠ 8) ∧
      (decWith 8#10).lk.valid = true ∧ (decWith 8#10).tea.len.toNat = 8 := by decide

theorem witness_TeaThreeAndFourAliasTeaTwo :
    (1 ≤ (decWith 8#10).lk.alg.toNat ∧ (decWith 8#10).lk.alg.toNat ≤ 3 ∧ 1 ≤ (3#3 : BitVec 3).toNat ∧
      (3#3 : BitVec 3).toNat ≤ 3) ∧ (keyed State.reset 0#3 10#8).lk.alg.toNat = 0 := by decide

/-- Vector T1: the reference encryption of a zero block under the zero key. -/
theorem witness_TeaBlkInvertsTheReferenceEncryptor :
    ∃ (s : State) (b : List Byte), b.length = 8 ∧ s.lk.valid = true ∧ s.tea.len.toNat = 8 ∧
      ∀ j, j < 8 → s.mem.cin j = (encWith s.lk b).getD j 0#8 :=
  ⟨keyed { loaded cinBase [0x0A3AEA41#32, 0x40A9BA94#32] with tea := { State.reset.tea with len := 8#10 } } 1#3 16#8,
    [0#8, 0#8, 0#8, 0#8, 0#8, 0#8, 0#8, 0#8], by decide +kernel⟩

/-- A latched key with given bytes. -/
def lkWith (alg : BitVec 3) (len : BitVec 8) (bytes : Vector Byte 16) : LatchedKey :=
  { valid := true, alg := alg, len := len, bytes := bytes }

theorem witness_TeaOneKeyIsItsFirstEightBytes :
    ∃ k k₁ k₂ : LatchedKey, k.alg.toNat = 0 ∧ k₁ ≠ k ∧
      (k₁.alg.toNat = 0 ∧ ∀ i, i < 8 → k₁.byte i = k.byte i) ∧
      (1 ≤ k₂.alg.toNat ∧ k₂.alg.toNat ≤ 3 ∧
        ∀ j, j < 4 → k₂.byte (4 * j) = 0#8 ∧ k₂.byte (4 * j + 1) = 0#8 ∧ k₂.byte (4 * j + 2) = k.byte (2 * j) ∧
          k₂.byte (4 * j + 3) = k.byte (2 * j + 1)) :=
  ⟨lkWith 0#3 10#8 #v[1#8, 2#8, 3#8, 4#8, 5#8, 6#8, 7#8, 8#8, 9#8, 10#8, 0#8, 0#8, 0#8, 0#8, 0#8, 0#8],
    lkWith 0#3 10#8 #v[1#8, 2#8, 3#8, 4#8, 5#8, 6#8, 7#8, 8#8, 0#8, 0#8, 0#8, 0#8, 0#8, 0#8, 0#8, 0#8],
    lkWith 3#3 16#8 #v[0#8, 0#8, 1#8, 2#8, 0#8, 0#8, 3#8, 4#8, 0#8, 0#8, 5#8, 6#8, 0#8, 0#8, 7#8, 8#8],
    by decide +kernel⟩

theorem witness_BusErrorsChangeNothing :
    (2 : Nat) ≠ 4 ∧ 0x001 % 4 ≠ 0 ∧ 0x8000 ≤ 0x8000 ∧ State.reset.hardReset.rstN = false := by decide

theorem witness_IdleReadsAnswerTheWordAndChangeNothing :
    (State.reset.eng = .idle ∧ State.reset.rstN = true ∧ 0x0000 % 4 = 0 ∧ 0x0000 < 0x8000 ∧ 0x7FFC % 4 = 0 ∧
      0x7FFC < 0x8000) ∧ isBuffer 0x0100 = true ∧ isBuffer 0x7FFC = true := by decide

theorem witness_RegisterWritesReadBackMasked :
    State.reset.eng = .idle ∧ State.reset.rstN = true ∧ rwMask .irqEn = some 0x00000003#32 ∧
      rwMask .teaLen = some 0x000003FF#32 := by decide

theorem witness_IgnoredWritesChangeNothing :
    (State.reset.eng = .idle ∧ State.reset.rstN = true) ∧
    (readOnly .id = true ∧ Reg.id.offset = 0x000) ∧ (readOnly .teaNblk = true ∧ Reg.teaNblk.offset = 0x0A8) ∧
    (regionOf 0x0100 = .syncOut ∧ regionOf 0x01FC = .syncOut) ∧ (regionOf 0x0600 = .cout ∧ regionOf 0x07FC = .cout) ∧
    (regionOf 0x0280 = .reserved ∧ regionOf 0x03FC = .reserved ∧ regionOf 0x0C00 = .reserved ∧
      regionOf 0x3FFC = .reserved) ∧
    (regionOf 0x001C = .regs ∧ regionOf 0x00AC = .regs ∧ regionOf 0x00FC = .regs) ∧
    ∀ r : Reg, 0x001C ≠ r.offset ∧ 0x00AC ≠ r.offset ∧ 0x00FC ≠ r.offset :=
  ⟨by decide, by decide, by decide, by decide, by decide, by decide, by decide, fun r => by cases r <;> decide⟩

theorem witness_BufferWritesReadBack :
    (State.reset.eng = .idle ∧ State.reset.rstN = true) ∧
    (regionOf 0x0200 = .bitbuf ∧ regionOf 0x027C = .bitbuf) ∧ (regionOf 0x0400 = .cin ∧ regionOf 0x05FC = .cin) ∧
    (regionOf 0x0800 = .symbuf ∧ regionOf 0x0BFC = .symbuf) ∧
    (regionOf 0x4000 = .samples ∧ regionOf 0x7FFC = .samples) := by decide

theorem witness_AccessorsFollowTheLayouts :
    State.reset.eng = .idle ∧ State.reset.rstN = true ∧ 4095 < 4096 ∧ 8191 < 8192 ∧ 1023 < 1024 ∧ 511 < 512 := by decide

theorem witness_BusyWritesAreDropped :
    (running 1#32 3).eng = .running 3 ∧ (running 1#32 3).rstN = true ∧ State.reset.rstN = true ∧ 0x014 % 4 = 0 ∧
      (1#32).getLsbD 0 = true ∧ (0#32).getLsbD 0 = false ∧ 0x004 % 4 = 0 ∧
      (0x004 ≠ 0x008 ∧ 0x004 ≠ 0x00C ∧ 0x004 ≠ 0x010 ∧ 0x004 ≠ 0x014) ∧
      (0x018 ≠ 0x008 ∧ 0x018 ≠ 0x00C ∧ 0x018 ≠ 0x010 ∧ 0x018 ≠ 0x014) := by decide

theorem witness_BusyReadsAreExactOutsideOutputs :
    ((running 3#32 0).eng = .running 0 ∧ (running 3#32 0).rstN = true ∧ decode (running 3#32 0).cmd = .ok .burst ∧
      0x021C % 4 = 0 ∧ 0x021C < 0x8000) ∧ (∃ t, exec .burst (running 3#32 0) = .next t) ∧
    ((running 9#32 0).eng = .running 0 ∧ (running 9#32 0).rstN = true ∧
      decode (running 9#32 0).cmd = .error .unassignedOpcode) :=
  ⟨by decide, ⟨_, rfl⟩, by decide⟩

theorem witness_SoftResetRestoresTheRegisters :
    State.reset.rstN = true ∧ (1#32).getLsbD 0 = true ∧ State.reset.eng = .idle ∧ (running 2#32 0).rstN = true := by
  decide

theorem witness_SoftResetKeepsTheOtherBuffers :
    ((running 3#32 5).rstN = true ∧ (1#32).getLsbD 0 = true ∧ decode (running 3#32 5).cmd = .ok .burst) ∧
    (∃ t, exec .burst (running 3#32 5) = .next t ∧ (listedWords (running 3#32 5) t .burst).1 = 0x0200 ∧
      (listedWords (running 3#32 5) t .burst).1 + 4 * (listedWords (running 3#32 5) t .burst).2 = 0x021C) ∧
    ((running 9#32 5).rstN = true ∧ decode (running 9#32 5).cmd = .error .unassignedOpcode) :=
  ⟨by decide, ⟨_, rfl, rfl, rfl⟩, by decide⟩

theorem witness_OnlyCompletionsSetInterruptFlags :
    ((running 9#32 0).eng = .running 0 ∧ (running 9#32 0).rstN = true ∧
      stepEnds (running 9#32 0) (fun t => t.irq.err) = true) ∧
    (¬(State.reset.eng = .running 0 ∧ State.reset.rstN = true) ∧ stepEnds State.reset (fun t => !t.irq.done) = true) := by
  decide

/-- With both interrupt flags set and one input to come. -/
def flagged (x : Input) : State :=
  { due [x] with irq := { doneEn := true, errEn := true, done := true, err := true } }

theorem witness_InterruptFlagsStayUntilClearedOrReset :
    stepEnds (flagged (.access (.write 4 0x010 3#32))) (fun t => !t.irq.done && !t.irq.err) = true ∧
    stepEnds (flagged (.access (.write 4 0x014 1#32))) (fun t => !t.irq.done && !t.irq.err) = true ∧
    stepEnds (flagged .assertReset) (fun t => !t.irq.done && !t.irq.err) = true := by decide

theorem witness_SimultaneousEventsResolveAsTheRuleSays :
    ({ running 9#32 1 with inputs := [.access (.write 4 0x010 3#32)] } : State).rstN = true ∧
      ({ running 9#32 1 with inputs := [.access (.write 4 0x010 3#32)] } : State).eng = .running 1 ∧
      ((steps 2 { running 9#32 1 with inputs := [.access (.write 4 0x010 3#32)] }).map fun t => t.status.code) =
        some 0x07#8 ∧
      ({ running 1#32 1 with inputs := [.access (.write 4 0x014 1#32)] } : State).eng = .running 1 ∧
      (1#32).getLsbD 0 = true := by decide

theorem witness_OnlyTeaKeyAndResetsChangeTheLatchedKey :
    stepEnds { keyWith 0#3 10#8 with cmd := 6#32, eng := .running 0 } (fun t => t.lk.valid) = true ∧
      stepEnds (keyed (due [.assertReset]) 1#3 16#8) (fun t => !t.lk.valid) = true := by decide

/-- A state other than the reset state that has the invariant, and its step. -/
theorem witness_EveryStepKeepsTheInvariant :
    ∃ s t : State, s.Inv ∧ step s = .next t ∧ s ≠ State.reset := by
  refine ⟨{ keyed (loaded cinBase [1#32]) 1#3 16#8 with inputs := [.access (.write 4 0x004 7#32)] }, _,
    ⟨⟨by decide, by decide, by decide⟩, ⟨by decide, by decide, by decide, by decide⟩, ?_, ?_⟩, rfl, by decide⟩
  · constructor <;> decide
  · constructor <;> decide

end Sys2Proof.Tests
end

section
/-! PROOFS. The outside world's turn, input by input (00_scope.md R4, 70_reset_and_hazards.md R260), and O7. -/

namespace Sys2Proof.Machine

/-! ## The outside world's turn -/

theorem State.hostTurn_nil {s : State} (hi : s.inputs = []) : s.hostTurn = s.waited [] := by
  simp [State.hostTurn, hi]

theorem State.hostTurn_cons {s : State} {x : Input} {rest : List Input} (hi : s.inputs = x :: rest) :
    s.hostTurn = (s.waited rest).applyInput x := by
  simp [State.hostTurn, hi]

theorem step_host_nil {s : State} (h : s.eng = .idle ∨ (∃ d, s.eng = .running (d + 1)) ∨ s.rstN = false)
    (hi : s.inputs = []) : step s = .next (s.waited []) := by
  rw [step_host h, State.hostTurn_nil hi]

/-- The step behind every kind of input: where no completion is due, the engine counts down and `x` takes effect. -/
theorem step_host_cons {s : State} {x : Input} {rest : List Input}
    (h : s.eng = .idle ∨ (∃ d, s.eng = .running (d + 1)) ∨ s.rstN = false) (hi : s.inputs = x :: rest) :
    step s = .next ((s.waited rest).applyInput x) := by
  rw [step_host h, State.hostTurn_cons hi]

/-! ## The countdown -/

@[simp] theorem Engine.tick_running_zero : (Engine.running 0).tick = .running 0 := rfl

/-- An engine at rest, Idle or with its delay over, has nothing to count down: the turn takes up the input only. -/
theorem State.waited_of_at_rest {s : State} (rest : List Input) (he : s.eng = .idle ∨ s.eng = .running 0) :
    s.waited rest = { s with inputs := rest } := by
  have htick : s.eng.tick = s.eng := by rcases he with he | he <;> simp [he]
  rw [State.waited, htick]

theorem State.waited_of_running_succ {s : State} {d : Nat} (rest : List Input) (he : s.eng = .running (d + 1)) :
    s.waited rest = { s with eng := .running d, inputs := rest } := by
  rw [State.waited, he, Engine.tick_succ]

end Sys2Proof.Machine

namespace Sys2Proof.Proofs

open Sys2Proof.Machine

/-- Settles O7: one turn of the outside world for each kind of input, then the two forms of the countdown. -/
theorem outsideWorldMovesOtherwise : Obligations.OutsideWorldMovesOtherwise := by
  intro s rest hturn
  have input (x : Input) := step_host_cons (x := x) (rest := rest) hturn
  exact ⟨step_host_nil hturn, input .idle, fun a => input (.access a), input .assertReset, input .releaseReset,
    State.waited_of_at_rest rest, fun _ => State.waited_of_running_succ rest⟩

end Sys2Proof.Proofs
end

section
/-! PROOFS. The invariant of the machine (10_state.md sections 2 to 8) and the latched key (R56): O52, O57, O58, O59, O60. -/

namespace Sys2Proof.Machine

/-! ## The buffers -/

theorem Memory.Stable.mono {ok ok' : Nat → Prop} {P : Memory → Prop} (st : Memory.Stable ok' P)
    (h : ∀ a, ok a → ok' a) : Memory.Stable ok P :=
  ⟨fun m a b ha => st.setByte m a b (h a ha)⟩

/-- `State.MemInv` as a property of the buffers alone, where `n` free values have been drawn. -/
structure Memory.Sound (n : Nat) (m : Memory) : Prop where
  wf : m.wf = true
  inBuffers : ∀ c ∈ m.cells, isBuffer c.1 = true
  drawn : m.draw < n

theorem State.memInv_iff (s : State) : s.MemInv ↔ s.mem.Sound s.draws :=
  ⟨fun h => ⟨h.wf, h.inBuffers, h.drawn⟩, fun h => ⟨h.wf, h.inBuffers, h.drawn⟩⟩

theorem Memory.Sound.mono {n k : Nat} {m : Memory} (h : m.Sound n) (hk : n ≤ k) : m.Sound k :=
  { h with drawn := Nat.lt_of_lt_of_le h.drawn hk }

theorem Memory.Sound.empty {n d : Nat} (h : d < n) : Memory.Sound n { cells := [], draw := d } :=
  ⟨rfl, by simp, h⟩

/-- Every byte written inside the buffers keeps them sound. -/
theorem Memory.Stable.sound (n : Nat) : Memory.Stable (fun a => isBuffer a = true) (Memory.Sound n) where
  setByte m a b ha h :=
    { wf := Memory.wf_setByte h.wf a b
      inBuffers := (Memory.Stable.inside fun c => isBuffer c = true).setByte m a b ha h.inBuffers
      drawn := h.drawn }

/-- The same for the buffer of one command. -/
theorem Memory.Stable.sound_own (n : Nat) (i : Instr) :
    Memory.Stable (fun a => ownBuffer i (regionOf a)) (Memory.Sound n) :=
  (Memory.Stable.sound n).mono fun _ => ownBuffer_isBuffer

/-- The regions of 20_memory.md R71 begin and end at word boundaries: an aligned word lies in one of them. -/
theorem regionOf_aligned_word {a c : Nat} (ha : a % 4 = 0) (h1 : a ≤ c) (h2 : c < a + 4) : regionOf c = regionOf a := by
  have lt_iff (b : Nat) (hb : b % 4 = 0) : c < b ↔ a < b := by omega
  simp only [regionOf, lt_iff, Nat.reduceMod]

theorem State.storeBuffer_memInv {s : State} {off : Nat} (v : Word) (h : s.MemInv) (ha : off % 4 = 0)
    (hoff : isBuffer off = true) : (s.storeBuffer off v).MemInv := by
  rw [State.memInv_iff] at h ⊢
  rw [State.storeBuffer_mem, State.storeBuffer_draws]
  refine (Memory.Stable.sound _).setWord v (fun c h1 h2 => ?_) h
  rwa [isBuffer, regionOf_aligned_word ha h1 h2]

theorem State.abandonedMem_sound {s : State} (h : s.MemInv) : s.abandonedMem.Sound s.draws :=
  State.abandonedMem_stable (fun i _ => Memory.Stable.sound_own s.draws i) (s.memInv_iff.1 h)

/-! ## Legal results -/

/-- The clauses of `State.ResultInv` on SYNC_RESULT (42_frame_sync.md R168). -/
structure SyncResult.Legal (r : SyncResult) : Prop where
  count : r.count.toNat ≤ 64
  best : r.best.toNat ≤ 22
  ovf : r.ovf = true → r.count.toNat = 64
  pass : (r.pass.toNat ≤ 3 ∧ 0 < r.count.toNat) ∨ (r.pass.toNat = 7 ∧ r.count.toNat = 0)

/-- The clauses of `State.ResultInv` on BURST_RESULT and BURST_TS (43_burst_crc.md R184 to R186). -/
structure BurstResult.Legal (r : BurstResult) (ts : BitVec 22) : Prop where
  kind : (r.btype.toNat = 0 ∧ r.tsLen.toNat = 0) ∨ (r.btype.toNat = 1 ∧ r.tsLen.toNat = 14) ∨
    (r.btype.toNat = 4 ∧ r.tsLen.toNat = 22)
  ts : ts.toNat < 2 ^ r.tsLen.toNat
  midMatch : r.midMatch.toNat ≤ 22

/-- The clauses of `State.ResultInv` on CRC_RESULT (43_burst_crc.md R181). -/
structure CrcResult.Legal (r : CrcResult) : Prop where
  hdNat : r.hdNat.toNat ≤ 16
  hdRev : r.hdRev.toNat ≤ 16
  order : r.order = true → r.ok = true

theorem State.resultInv_iff (s : State) :
    s.ResultInv ↔ s.demodOut.nfe.toNat ≤ 4096 ∧ s.syncResult.Legal ∧ s.burstResult.Legal s.burstTs ∧
      s.crcResult.Legal ∧ s.teaNblk.toNat ≤ 64 := by
  constructor
  · intro h
    exact ⟨h.nfe, ⟨h.syncCount, h.syncBest, h.syncOvf, h.syncPass⟩, ⟨h.burstKind, h.burstTs, h.midMatch⟩,
      ⟨h.hdNat, h.hdRev, h.order⟩, h.nblk⟩
  · rintro ⟨hnfe, hsync, hburst, hcrc, hnblk⟩
    exact ⟨hnfe, hsync.count, hsync.best, hsync.ovf, hsync.pass, hburst.kind, hburst.ts, hburst.midMatch, hcrc.hdNat,
      hcrc.hdRev, hcrc.order, hnblk⟩

theorem State.demodOutputs_nfe_le {s : State} (hc : s.demodCheck = none) :
    s.demodOutputs.demodOut.nfe.toNat ≤ 4096 := by
  obtain ⟨-, hn⟩ := s.demodCheck_eq_none.1 hc
  have hlen := s.length_demodSeq_le
  simp only [State.demodOutputs_demodOut, BitVec.toNat_ofNat]
  omega

/-- A SYNC whose checks pass has an offset to look at (42_frame_sync.md R162). -/
theorem State.syncCounts_ne_nil {s : State} (hc : s.syncCheck = none) : s.syncCounts ≠ [] := by
  obtain ⟨-, -, hlen⟩ := s.syncCheck_eq_none.1 hc
  apply List.ne_nil_of_length_pos
  simp only [State.syncCounts, length_offsetCounts, State.syncBits, Memory.length_sbits, State.syncLength]
  split <;> omega

/-- The search ends with a pass and a list that is not empty, or with pass 7 and none (42_frame_sync.md R166, R167). -/
theorem State.syncFound_pass {s : State} (hc : s.syncCheck = none) :
    (s.syncFound.pass ≤ 3 ∧ s.syncFound.list ≠ []) ∨ (s.syncFound.pass = 7 ∧ s.syncFound.list = []) := by
  obtain ⟨-, hskip, -⟩ := s.syncCheck_eq_none.1 hc
  rcases syncSearch_cases s.sync s.syncCounts with ⟨h0, e⟩ | ⟨-, h1, e⟩ | ⟨-, -, h2, e⟩ | ⟨-, -, -, hf, e⟩ |
    ⟨-, -, -, -, e⟩ <;> simp only [State.syncFound, e]
  · exact .inl ⟨by decide, h0⟩
  · exact .inl ⟨by decide, h1⟩
  · exact .inl ⟨by decide, h2⟩
  · exact .inl ⟨by decide, adaptive_ne_nil _ _ (State.syncCounts_ne_nil hc) hskip hf⟩
  · exact .inr ⟨trivial, trivial⟩

theorem State.syncOutputs_legal {s : State} (hc : s.syncCheck = none) : s.syncOutputs.syncResult.Legal := by
  have hbest := s.bestCount_le
  have hcount : (BitVec.ofNat 7 (min s.syncFound.list.length Config.syncCap)).toNat =
      min s.syncFound.list.length 64 := by
    simp only [BitVec.toNat_ofNat, Config.syncCap]
    omega
  rw [State.syncOutputs_syncResult]
  constructor
  case count => rw [hcount]; omega
  case best => simp only [BitVec.toNat_ofNat]; omega
  case ovf =>
    intro hovf
    have : 64 < s.syncFound.list.length := by simpa [Config.syncCap] using hovf
    rw [hcount]
    omega
  case pass =>
    rw [hcount]
    rcases State.syncFound_pass hc with ⟨hpass, hne⟩ | ⟨hpass, hnil⟩
    · have := List.length_pos_iff.2 hne
      simp only [BitVec.toNat_ofNat]
      omega
    · simp [hpass, hnil]

/-- The tolerant check reports distances of 16 bits at most, and the reversed order only on success (43_burst_crc.md R181). -/
theorem crcCheck_result_legal (maxHd : Nat) (d : List Bool) : (crcCheck maxHd d).result.Legal := by
  obtain ⟨-, -, -, hn, hr, hok, horder⟩ := crcCheck_spec maxHd d
  have hnle := hn ▸ popcount16_le _
  have hrle := hr ▸ popcount16_le _
  constructor
  case hdNat => simp only [CrcReport.result, BitVec.toNat_ofNat]; omega
  case hdRev => simp only [CrcReport.result, BitVec.toNat_ofNat]; omega
  case order => exact fun h => hok.2 (.inr (horder.1 h).2)

theorem State.crcCheckOutputs_legal (s : State) : s.crcCheckOutputs.crcResult.Legal := by
  rw [State.crcCheckOutputs_crcResult, State.crcReport]
  exact crcCheck_result_legal _ _

theorem State.burstOutputs_crcResult_legal (s : State) : s.burstOutputs.crcResult.Legal := by
  rw [State.burstOutputs_crcResult, State.burstReport]
  exact crcCheck_result_legal _ _

theorem State.midMatch_le (s : State) : s.midMatch ≤ 22 := windowCount_le _ _ _

theorem State.burstOutputs_legal (s : State) : s.burstOutputs.burstResult.Legal s.burstOutputs.burstTs := by
  have hmid := s.midMatch_le
  have hlen := s.length_burstTraining
  have htsLen : (BitVec.ofNat 5 s.burstTraining.length).toNat = s.burstTraining.length := by
    rw [BitVec.toNat_ofNat, hlen]
    split <;> rfl
  rw [State.burstOutputs_burstResult, State.burstOutputs_burstTs]
  constructor
  case kind => cases hsync : s.isSyncBurst <;> simp [State.burstType, hsync, hlen]
  case ts =>
    rw [htsLen, BitVec.toNat_ofNat]
    exact Nat.lt_of_le_of_lt (Nat.mod_le _ _) (bitsVal_lt s.burstTraining)
  case midMatch => simp only [BitVec.toNat_ofNat]; omega

theorem State.teaDecOutputs_nblk_le {s : State} (x : TeaTransforms) (hc : s.teaDecCheck = none) :
    (s.teaDecOutputs x).teaNblk.toNat ≤ 64 := by
  obtain ⟨-, hlen, -⟩ := s.teaDecCheck_eq_none.1 hc
  simp only [State.teaDecOutputs_teaNblk, State.teaBlocks, BitVec.toNat_ofNat]
  omega

/-! ## What each part of the invariant depends on -/

theorem State.MemInv.of_eq {s t : State} (h : s.MemInv) (hmem : t.mem = s.mem) (hdraws : s.draws ≤ t.draws) :
    t.MemInv := by
  rw [State.memInv_iff] at h ⊢
  exact hmem ▸ h.mono hdraws

theorem State.KeyInv.of_eq {s t : State} (h : s.KeyInv) (hlk : t.lk = s.lk) : t.KeyInv := by
  obtain ⟨hcleared, hknown, hlength, hpadded⟩ := h
  constructor <;> rw [hlk] <;> assumption

theorem State.ResultInv.of_eq {s t : State} (h : s.ResultInv) (hdemod : t.demodOut = s.demodOut)
    (hsync : t.syncResult = s.syncResult) (hburst : t.burstResult = s.burstResult) (hts : t.burstTs = s.burstTs)
    (hcrc : t.crcResult = s.crcResult) (hnblk : t.teaNblk = s.teaNblk) : t.ResultInv := by
  rw [State.resultInv_iff] at h ⊢
  rwa [hdemod, hsync, hburst, hts, hcrc, hnblk]

/-- An Idle engine needs only an opcode that is CMD's, a legal code, and no info value without an error. -/
theorem State.EngineInv.of_idle {s : State} (he : s.eng = .idle) (hop : s.status.op = s.cmd.extractLsb' 0 8)
    (hcode : s.status.code.toNat ≤ 8) (hinfo : s.status.code.toNat < 2 → s.errInfo = 0#32) : s.EngineInv where
  held _ := he
  opcode := hop
  notDone hb := by simp [State.not_busy_iff.2 he] at hb
  noCode hb := by simp [State.not_busy_iff.2 he] at hb
  legalCode := hcode
  info _ := hinfo

/-- `t` differs from `s` only in what the invariant does not speak of: operand registers, IRQ_EN and IRQ_STATUS, WBUSY,
CRC_VALUE, the remaining delay, a released `rst_n`, further draws, the coming inputs and the response. -/
structure State.InvFrame (s t : State) : Prop where
  mem : t.mem = s.mem
  draws : s.draws ≤ t.draws
  lk : t.lk = s.lk
  cmd : t.cmd = s.cmd
  op : t.status.op = s.status.op
  code : t.status.code = s.status.code
  done : t.status.done = s.status.done
  errInfo : t.errInfo = s.errInfo
  idle : t.eng = .idle ↔ s.eng = .idle
  held : t.rstN = false → s.rstN = false
  demodOut : t.demodOut = s.demodOut
  syncResult : t.syncResult = s.syncResult
  burstResult : t.burstResult = s.burstResult
  burstTs : t.burstTs = s.burstTs
  crcResult : t.crcResult = s.crcResult
  teaNblk : t.teaNblk = s.teaNblk

theorem State.InvFrame.busy {s t : State} (f : s.InvFrame t) : t.busy = s.busy := by
  have h : t.busy = false ↔ s.busy = false := by rw [State.not_busy_iff, State.not_busy_iff, f.idle]
  exact Bool.eq_iff_iff.2 (by simpa using not_congr h)

theorem State.Inv.of_frame {s t : State} (h : s.Inv) (f : s.InvFrame t) : t.Inv where
  mem := h.mem.of_eq f.mem f.draws
  key := h.key.of_eq f.lk
  engine :=
    { held := fun hr => f.idle.2 (h.engine.held (f.held hr))
      opcode := by rw [f.op, f.cmd]; exact h.engine.opcode
      notDone := by rw [f.busy, f.done]; exact h.engine.notDone
      noCode := by rw [f.busy, f.code]; exact h.engine.noCode
      legalCode := by rw [f.code]; exact h.engine.legalCode
      info := by rw [f.busy, f.code, f.errInfo]; exact h.engine.info }
  result := h.result.of_eq f.demodOut f.syncResult f.burstResult f.burstTs f.crcResult f.teaNblk

theorem State.invFrame_answer (s : State) (r : BusResponse) : s.InvFrame (s.answer r) := by constructor <;> simp

theorem State.invFrame_drawn (s : State) : s.InvFrame s.drawn := by constructor <;> simp

theorem State.invFrame_dropWrite (s : State) : s.InvFrame s.dropWrite := by constructor <;> simp

theorem State.invFrame_releaseReset (s : State) : s.InvFrame s.releaseReset := by constructor <;> simp

theorem State.invFrame_waited (s : State) (rest : List Input) : s.InvFrame (s.waited rest) := by
  constructor <;> simp [Engine.tick_eq_idle]

theorem State.invFrame_storeReg (s : State) (v : Word) (r : Reg) : s.InvFrame (s.storeReg v r) := by
  obtain ⟨hcmd, hinfo, hdemod, hsync, hburst, hts, -, hcrc, hnblk, hlk, heng, hmem, hrst, -, -, hdraws, hstatus⟩ :=
    s.storeReg_keeps v r
  constructor
  case op => rw [hstatus]
  case code => rw [hstatus]
  case done => rw [hstatus]
  all_goals simp only [hcmd, hinfo, hdemod, hsync, hburst, hts, hcrc, hnblk, hlk, heng, hmem, hrst, hdraws, le_refl,
    imp_self]

/-! ## Resets keep the invariant -/

theorem State.keyInv_of_cleared {s : State} (h : s.lk = LatchedKey.cleared) : s.KeyInv := by
  constructor <;> rw [h] <;> decide

/-- Registers, LK and ENG at their reset values have the invariant with any sound buffers, whatever the level of the pin, the
coming inputs and the response. -/
theorem State.resetWith_inv {m : Memory} {n : Nat} (hm : m.Sound n) (pin : Bool) (coming : List Input)
    (answered : Option BusResponse) :
    ({ State.reset with mem := m, rstN := pin, inputs := coming, response := answered, draws := n } : State).Inv where
  mem := (State.memInv_iff _).2 hm
  key := State.keyInv_of_cleared rfl
  engine := State.EngineInv.of_idle rfl rfl (Nat.zero_le 8) fun _ => rfl
  result := by
    have hreset : State.reset.ResultInv := by constructor <;> decide
    exact hreset.of_eq rfl rfl rfl rfl rfl rfl

theorem State.reset_inv : State.reset.Inv := State.resetWith_inv (.empty (by decide)) true [] none

theorem State.hardReset_inv (s : State) : s.hardReset.Inv :=
  State.resetWith_inv (.empty s.draws.lt_succ_self) false s.inputs none

theorem State.Inv.softReset {s : State} (h : s.Inv) : s.softReset.Inv :=
  State.resetWith_inv ((State.abandonedMem_sound h.mem).mono s.draws.le_succ) s.rstN s.inputs s.response

/-! ## Accesses keep the invariant -/

/-- The start of a command (40_command.md R121), while `rst_n` is released. -/
theorem State.Inv.startCommand {s : State} (h : s.Inv) (hr : s.rstN = true) (w : Word) : (s.startCommand w).Inv where
  mem := h.mem.of_eq (s.startCommand_mem w) (by simp)
  key := h.key.of_eq (s.startCommand_lk w)
  engine :=
    { held := by simp [hr]
      opcode := rfl
      notDone := fun _ => rfl
      noCode := fun _ => rfl
      legalCode := by simp
      info := by simp [State.busy] }
  result := h.result.of_eq rfl rfl rfl rfl rfl rfl

theorem State.Inv.storeBuffer {s : State} (h : s.Inv) {off : Nat} (ha : off % 4 = 0) (hoff : isBuffer off = true)
    (v : Word) : (s.storeBuffer off v).Inv where
  mem := State.storeBuffer_memInv v h.mem ha hoff
  key := h.key.of_eq rfl
  engine := ⟨h.engine.held, h.engine.opcode, h.engine.notDone, h.engine.noCode, h.engine.legalCode, h.engine.info⟩
  result := h.result.of_eq rfl rfl rfl rfl rfl rfl

theorem State.Inv.storeWord {s : State} (h : s.Inv) (hr : s.rstN = true) {off : Nat} (ha : off % 4 = 0) (v : Word) :
    (s.storeWord off v).Inv := by
  rcases s.storeWord_cases off v with ⟨-, e⟩ | ⟨-, -, e⟩ | ⟨r, -, -, -, e⟩ | ⟨hregion, e⟩ | e <;> rw [e]
  · exact h.startCommand hr v
  · exact h.softReset
  · exact h.of_frame (s.invFrame_storeReg v r)
  · exact h.storeBuffer ha (by rcases hregion with hb | hb | hb | hb <;> simp [isBuffer, hb]) v
  · exact h

theorem State.Inv.hostAccess {s : State} (h : s.Inv) (a : Access) : (s.hostAccess a).Inv := by
  rcases s.hostAccess_cases a with ⟨r, e | e⟩ | ⟨-, e⟩ | ⟨off, v, -, ha, hr, -, e⟩ <;> rw [e]
  · exact h.of_frame (s.invFrame_answer r)
  · exact (h.of_frame s.invFrame_drawn).of_frame (s.drawn.invFrame_answer r)
  · exact (h.of_frame s.invFrame_dropWrite).of_frame (s.dropWrite.invFrame_answer .accepted)
  · exact (h.storeWord hr ha v).of_frame ((s.storeWord off v).invFrame_answer .accepted)

theorem State.Inv.applyInput {s : State} (h : s.Inv) (x : Input) : (s.applyInput x).Inv := by
  cases x with
  | idle => exact h
  | access a => exact h.hostAccess a
  | assertReset => exact s.hardReset_inv
  | releaseReset => exact h.of_frame s.invFrame_releaseReset

theorem State.Inv.hostTurn {s : State} (h : s.Inv) : s.hostTurn.Inv := by
  have hwaited (rest : List Input) : (s.waited rest).Inv := h.of_frame (s.invFrame_waited rest)
  rcases s.hostTurn_cases with ⟨-, e⟩ | ⟨x, rest, -, e⟩ <;> rw [e]
  · exact hwaited []
  · exact (hwaited rest).applyInput x

/-! ## Commands keep the invariant -/

/-- Completion (40_command.md R123): the code is one of 60_exceptions.md R240, and ERR_INFO is 0 but for an error. -/
theorem State.Inv.complete {s : State} (h : s.Inv) (code : Code) (info : Word) : (s.complete code info).Inv where
  mem := h.mem.of_eq rfl (Nat.le_refl _)
  key := h.key.of_eq rfl
  engine := by
    refine .of_idle rfl h.engine.opcode code.byte_le fun hlt => ?_
    have herr : code.isError = false := decide_eq_false (Nat.not_le.2 hlt)
    simp [herr]
  result := h.result.of_eq rfl rfl rfl rfl rfl rfl

/-- The key that a TEA_KEY latches when its checks pass (44_tea.md R210, R211). -/
theorem State.newKey_keyInv {s t : State} (hc : s.teaKeyCheck = none) (hlk : t.lk = s.newKey) : t.KeyInv := by
  obtain ⟨halg, hlen⟩ := s.teaKeyCheck_eq_none.1 hc
  constructor <;> rw [hlk]
  case cleared => exact fun hv => absurd hv (by simp [State.newKey])
  case known => exact fun _ => halg
  case length => exact fun _ => hlen
  case padded =>
    intro i hi hle
    rw [State.newKey_byte s i hi]
    exact if_neg (Nat.not_lt.2 hle)

/-- Only TEA_KEY has LK as an output (44_tea.md R210). -/
theorem State.outputsOf_lk (s : State) {i : Instr} (hi : i ≠ .teaKey) : (s.outputsOf i).lk = s.lk := by
  cases i with
  | teaKey => contradiction
  | _ => simp [State.outputsOf]

theorem State.outputsOf_keyInv {s : State} {i : Instr} (hc : s.checkOf i = none) (h : s.KeyInv) :
    (s.outputsOf i).KeyInv := by
  by_cases hi : i = .teaKey
  · subst hi
    exact State.newKey_keyInv hc rfl
  · exact h.of_eq (s.outputsOf_lk hi)

theorem State.outputsOf_memInv {s : State} {i : Instr} (hc : s.checkOf i = none) (h : s.MemInv) :
    (s.outputsOf i).MemInv := by
  obtain ⟨-, -, -, -, -, -, -, -, -, -, -, -, -, hdraws⟩ := s.outputsOf_keeps i
  rw [State.memInv_iff, hdraws]
  exact State.outputsOf_mem_stable hc (Memory.Stable.sound_own s.draws i) (s.memInv_iff.1 h)

theorem State.outputsOf_engineInv {s : State} (i : Instr) (h : s.EngineInv) : (s.outputsOf i).EngineInv := by
  obtain ⟨hcmd, hstatus, -, hinfo, -, -, -, -, -, heng, hrst, -, -, -⟩ := s.outputsOf_keeps i
  have hbusy : (s.outputsOf i).busy = s.busy := by simp only [State.busy, heng]
  obtain ⟨held, opcode, notDone, noCode, legalCode, info⟩ := h
  constructor <;> simp only [hcmd, hstatus, hinfo, heng, hrst, hbusy] <;> assumption

/-- Each command's outputs are legal in their own result registers, and the other commands' stand as they were. -/
theorem State.outputsOf_resultInv {s : State} {i : Instr} (hc : s.checkOf i = none) (h : s.ResultInv) :
    (s.outputsOf i).ResultInv := by
  rw [State.resultInv_iff] at h ⊢
  obtain ⟨hnfe, hsync, hburst, hcrc, hnblk⟩ := h
  cases i with
  | nop => exact ⟨hnfe, hsync, hburst, hcrc, hnblk⟩
  | demod => exact ⟨State.demodOutputs_nfe_le hc, hsync, hburst, hcrc, hnblk⟩
  | sync =>
    simp only [State.outputsOf, State.syncOutputs_demodOut, State.syncOutputs_burstResult, State.syncOutputs_burstTs,
      State.syncOutputs_crcResult, State.syncOutputs_teaNblk]
    exact ⟨hnfe, State.syncOutputs_legal hc, hburst, hcrc, hnblk⟩
  | burst =>
    simp only [State.outputsOf, State.burstOutputs_demodOut, State.burstOutputs_syncResult, State.burstOutputs_teaNblk]
    exact ⟨hnfe, hsync, s.burstOutputs_legal, s.burstOutputs_crcResult_legal, hnblk⟩
  | crcGen => exact ⟨hnfe, hsync, hburst, hcrc, hnblk⟩
  | crcCheck => exact ⟨hnfe, hsync, hburst, s.crcCheckOutputs_legal, hnblk⟩
  | teaKey => exact ⟨hnfe, hsync, hburst, hcrc, hnblk⟩
  | teaDec => exact ⟨hnfe, hsync, hburst, hcrc, State.teaDecOutputs_nblk_le _ hc⟩
  | teaBlk => exact ⟨hnfe, hsync, hburst, hcrc, show (1#7).toNat ≤ 64 by decide⟩

theorem State.Inv.outputsOf {s : State} {i : Instr} (h : s.Inv) (hc : s.checkOf i = none) : (s.outputsOf i).Inv where
  mem := State.outputsOf_memInv hc h.mem
  key := State.outputsOf_keyInv hc h.key
  engine := State.outputsOf_engineInv i h.engine
  result := State.outputsOf_resultInv hc h.result

theorem State.Inv.exec {s t : State} {i : Instr} (h : s.Inv) (hx : exec i s = .next t) : t.Inv := by
  rcases exec_cases hx with ⟨code, info, -, -, rfl⟩ | ⟨hc, rfl⟩
  · exact h.complete code info
  · exact (h.outputsOf hc).complete .ok 0#32

/-! ## The latched key -/

/-- What changes LK in a turn of the outside world: a falling edge of `rst_n`, or a performed write of 1 to CTRL.SRST. -/
theorem State.applyInput_lk (s : State) (x : Input) :
    (s.applyInput x).lk = s.lk ∨
      ((s.applyInput x).lk = LatchedKey.cleared ∧
        (x = .assertReset ∨
          (s.rstN = true ∧ ∃ v : Word, x = .access (.write 4 0x014 v) ∧ v.getLsbD 0 = true))) := by
  cases x with
  | idle => exact .inl rfl
  | releaseReset => exact .inl rfl
  | assertReset => exact .inr ⟨rfl, .inl rfl⟩
  | access a =>
    simp only [State.applyInput]
    rcases s.hostAccess_cases a with ⟨r, e | e⟩ | ⟨-, e⟩ | ⟨off, v, rfl, -, hr, -, e⟩ <;> rw [e]
    · exact .inl rfl
    · exact .inl rfl
    · exact .inl rfl
    · rw [State.answer_lk]
      rcases s.storeWord_cases off v with ⟨-, e⟩ | ⟨rfl, hv, e⟩ | ⟨r, -, -, -, e⟩ | ⟨-, e⟩ | e <;> rw [e]
      · exact .inl rfl
      · exact .inr ⟨rfl, .inr ⟨hr, v, rfl, hv⟩⟩
      · exact .inl (s.invFrame_storeReg v r).lk
      · exact .inl rfl
      · exact .inl rfl

/-- The state with other bytes in LK. -/
def State.withKeyBytes (s : State) (b : Vector Byte 16) : State := { s with lk := { s.lk with bytes := b } }

section KeyBytes

variable (s : State) (b : Vector Byte 16)

theorem State.readReg_withKeyBytes (r : Reg) : (s.withKeyBytes b).readReg r = s.readReg r := by cases r <;> rfl

theorem State.readWord_withKeyBytes (off : Nat) : (s.withKeyBytes b).readWord off = s.readWord off := by
  simp only [State.readWord, State.readReg_withKeyBytes]
  rfl

theorem State.outputWords_withKeyBytes (i : Instr) : (s.withKeyBytes b).outputWords i = s.outputWords i := by
  cases i <;> rfl

theorem State.openMask_withKeyBytes (off : Nat) : (s.withKeyBytes b).openMask off = s.openMask off := by
  have hop : (s.withKeyBytes b).runningOp = s.runningOp := rfl
  simp only [State.openMask, hop, State.outputWords_withKeyBytes]

theorem State.hostRead_withKeyBytes (off : Nat) :
    (s.withKeyBytes b).hostRead off = (s.hostRead off).withKeyBytes b := by
  simp only [State.hostRead, State.openMask_withKeyBytes, State.readWord_withKeyBytes]
  split <;> rfl

theorem State.hostAccess_read_withKeyBytes (bytes off : Nat) :
    (s.withKeyBytes b).hostAccess (.read bytes off) = (s.hostAccess (.read bytes off)).withKeyBytes b := by
  have hperforms : (s.withKeyBytes b).performs bytes off = s.performs bytes off := rfl
  simp only [State.hostAccess, hperforms, State.hostRead_withKeyBytes]
  split <;> rfl

theorem State.hostAccess_read_lk (bytes off : Nat) : (s.hostAccess (.read bytes off)).lk = s.lk := by
  rcases s.hostAccess_cases (.read bytes off) with ⟨r, e | e⟩ | ⟨-, e⟩ | ⟨_, _, h, -⟩
  · rw [e, State.answer_lk]
  · rw [e, State.answer_lk, State.drawn_lk]
  · rw [e, State.answer_lk, State.dropWrite_lk]
  · cases h

end KeyBytes

end Sys2Proof.Machine

namespace Sys2Proof.Proofs

open Sys2Proof.Machine

/-- Settles O59: the engine's turn completes a command, legal or illegal, and every other turn is the outside world's. -/
theorem everyStepKeepsTheInvariant : Obligations.EveryStepKeepsTheInvariant := by
  intro s t h hstep
  rcases step_cases hstep with ⟨-, -, i, -, hx⟩ | ⟨-, -, -, rfl⟩ | ⟨-, rfl⟩
  · exact h.exec hx
  · exact h.complete .badCommand s.cmd
  · exact h.hostTurn

/-- Settles O57: of the commands only TEA_KEY writes LK, and of the inputs only the two resets. -/
theorem onlyTeaKeyAndResetsChangeTheLatchedKey : Obligations.OnlyTeaKeyAndResetsChangeTheLatchedKey := by
  intro s t hstep hne
  rcases step_cases hstep with ⟨hr, he, i, hd, hx⟩ | ⟨-, -, -, rfl⟩ | ⟨-, rfl⟩
  · left
    rcases exec_cases hx with ⟨code, info, -, -, rfl⟩ | ⟨hc, rfl⟩
    · exact absurd rfl hne
    · have hi : i = .teaKey := by
        by_contra hi
        exact hne (s.outputsOf_lk hi)
      exact ⟨hr, he, hi ▸ hd, (exec_code_eq_ok hx).2 hc⟩
  · exact absurd rfl hne
  · right
    rcases s.hostTurn_cases with ⟨-, e⟩ | ⟨x, rest, hin, e⟩ <;> rw [e] at hne ⊢
    · exact absurd rfl hne
    · obtain ⟨hcleared, hx⟩ := ((s.waited rest).applyInput_lk x).resolve_left hne
      exact ⟨hcleared, x, rest, hin, hx⟩

/-- Settles O58: the answer, the open bits and whether a read is performed are the same whatever bytes LK holds. -/
theorem latchedKeyBytesAreNotReadable : Obligations.LatchedKeyBytesAreNotReadable := by
  intro s b bytes off
  have hread := s.hostAccess_read_withKeyBytes b bytes off
  simpa only [State.withKeyBytes, State.hostAccess_read_lk] using hread

/-- Settles O52: each register of the reset state evaluates to its row of the reset column. -/
theorem resetStateReadsTheResetColumn : Obligations.ResetStateReadsTheResetColumn := by
  intro r
  cases r <;> rfl

/-- Settles O60: the reset state is the reset registers with empty buffers of draw 0, one draw made. -/
theorem resetStateHasTheInvariant : Obligations.ResetStateHasTheInvariant := State.reset_inv

end Sys2Proof.Proofs
end

section
/-! PROOFS. What the host reads and writes while no command runs (20_memory.md sections 1 to 4): O42 to O46. -/

namespace Sys2Proof.Machine

open Sys2Proof.Spec

/-! ## Fields and masks of a word -/

@[simp] theorem getLsbD_flagBit (b : Bool) : (flagBit b).getLsbD 0 = b := by cases b <;> rfl

@[simp] theorem getElem_flagBit (b : Bool) : (flagBit b)[0] = b := getLsbD_flagBit b

theorem flagBit_getLsbD {n : Nat} (v : BitVec n) (i : Nat) : flagBit (v.getLsbD i) = v.extractLsb' i 1 := by
  apply BitVec.eq_of_getLsbD_eq
  intro j hj
  obtain rfl : j = 0 := by omega
  rw [getLsbD_flagBit, BitVec.getLsbD_extractLsb']
  rfl

theorem zero_append_eq_setWidth {a b : Nat} (x : BitVec b) : 0#a ++ x = x.setWidth (a + b) := by
  apply BitVec.eq_of_getLsbD_eq
  intro i hi
  simp only [BitVec.getLsbD_append, BitVec.getLsbD_setWidth, hi, decide_true, Bool.true_and, BitVec.getLsbD_zero]
  split
  · rfl
  · rw [BitVec.getLsbD_of_ge x i (by omega)]

theorem append_extractLsb' {a b : Nat} (v : BitVec (a + b)) : v.extractLsb' b a ++ v.extractLsb' 0 b = v := by
  rw [BitVec.extractLsb'_append_extractLsb'_eq_extractLsb' (by omega), BitVec.extractLsb'_eq_self]

/-- A field of a field is a field. -/
theorem extractLsb'_extractLsb' {n p l p' l' : Nat} (v : BitVec n) (h : p' + l' ≤ l) :
    (v.extractLsb' p l).extractLsb' p' l' = v.extractLsb' (p + p') l' := by
  apply BitVec.eq_of_getLsbD_eq
  intro i hi
  have hl : p' + i < l := by omega
  simp only [BitVec.getLsbD_extractLsb', hi, hl, decide_true, Bool.true_and, Nat.add_assoc]

/-- A mask in two parts masks the two parts of the word. -/
theorem and_maskAppend {a b : Nat} (v : BitVec (a + b)) (p : BitVec a) (q : BitVec b) :
    v &&& (p ++ q) = (v.extractLsb' b a &&& p) ++ (v.extractLsb' 0 b &&& q) := by
  rw [← BitVec.and_append, append_extractLsb']

/-- The mask of one field in the low bits. -/
theorem and_lowMask {a b : Nat} (v : BitVec (a + b)) : v &&& (0#a ++ BitVec.allOnes b) = 0#a ++ v.extractLsb' 0 b := by
  rw [and_maskAppend, BitVec.and_zero, BitVec.and_allOnes]

/-- The mask of two fields next to each other. -/
theorem and_pairMask {a b c : Nat} (v : BitVec (a + b + c)) :
    v &&& (0#a ++ BitVec.allOnes b ++ BitVec.allOnes c) = 0#a ++ v.extractLsb' c b ++ v.extractLsb' 0 c := by
  rw [and_maskAppend, and_lowMask, BitVec.and_allOnes, extractLsb'_extractLsb' v (by omega), Nat.add_zero]

/-- The mask of two fields with reserved bits between them. -/
theorem and_gapMask {a b c d : Nat} (v : BitVec (a + b + c + d)) :
    v &&& (0#a ++ BitVec.allOnes b ++ 0#c ++ BitVec.allOnes d) =
      0#a ++ v.extractLsb' (d + c) b ++ 0#c ++ v.extractLsb' 0 d := by
  rw [and_maskAppend, and_maskAppend, and_lowMask, BitVec.and_zero, BitVec.and_allOnes,
    extractLsb'_extractLsb' _ (by omega), extractLsb'_extractLsb' v (by omega), Nat.add_zero]

/-! ## Register reads -/

@[simp] theorem State.readReg_answer (s : State) (a : BusResponse) (r : Reg) :
    (s.answer a).readReg r = s.readReg r := by
  cases r <;> rfl

@[simp] theorem State.readReg_storeBuffer (s : State) (off : Nat) (v : Word) (r : Reg) :
    (s.storeBuffer off v).readReg r = s.readReg r := by
  cases r <;> rfl

/-- The fields of every register that is not plain RW are at their places (10_state.md R22 to R55): whole words, then
numbers below zeros, then one-bit flags, then fields inside a word, its reserved ones among them. -/
theorem State.readsFields (s : State) : ReadsFields s := by
  constructor
  case id | cmd | ctrl | errInfo => rfl
  case phase | nfe | symCount | burstTs | nblk => exact zero_append_eq_setWidth _
  case busy | done | wbusy | irqDone | irqErr | syncOvf | burstCrcOk | crcOk | crcOrder | keyValid =>
    simp only [State.readReg, BitVec.getLsbD_append]
    simp
  all_goals
    simp (disch := decide) only [State.readReg, BitVec.extractLsb'_append_eq_of_add_le,
      BitVec.extractLsb'_append_eq_of_le]
    simp

/-! ## Register writes -/

/-- A RW register reads back the bits written at the places of its fields (20_memory.md R73). -/
theorem State.readReg_storeReg_same (s : State) (v : Word) {r : Reg} {m : Word} (h : rwMask r = some m) :
    (s.storeReg v r).readReg r = v &&& m := by
  cases r <;> cases h <;> simp only [State.readReg, State.storeReg, flagBit_getLsbD]
  case irqEn => exact (and_pairMask (a := 30) (b := 1) (c := 1) v).symm
  case demodCfg => exact (and_pairMask (a := 23) (b := 1) (c := 8) v).symm
  case teaCfg => exact (and_gapMask (a := 23) (b := 1) (c := 5) (d := 3) v).symm
  case syncTs1 | syncTs2 => exact (and_lowMask (a := 10) (b := 22) v).symm
  case burstCfg => exact (and_lowMask (a := 16) (b := 16) v).symm
  case syncStart | burstStart => exact (and_lowMask (a := 18) (b := 14) v).symm
  case demodNsamp | symCount => exact (and_lowMask (a := 19) (b := 13) v).symm
  case crcNbits => exact (and_lowMask (a := 21) (b := 11) v).symm
  case teaLen => exact (and_lowMask (a := 22) (b := 10) v).symm
  case teaKeylen => exact (and_lowMask (a := 24) (b := 8) v).symm
  case crcCfg => exact (and_lowMask (a := 27) (b := 5) v).symm
  case syncThr01 | syncThr2f | syncAdapt =>
    exact (append_extractLsb' (a := 16) (b := 16) v).trans BitVec.and_allOnes.symm
  all_goals exact BitVec.and_allOnes.symm

/-- A write to one register is not seen in any other: no two registers share a field (10_state.md R22 to R55). The
registers of the first case store nothing. -/
theorem State.readReg_storeReg_ne (s : State) (v : Word) {q r : Reg} (h : q ≠ r) :
    (s.storeReg v r).readReg q = s.readReg q := by
  cases r with
  | id | cmd | ctrl | errInfo | demodPhase | demodNfe | syncResult | burstResult | burstTs | crcValue | crcResult
  | teaState | teaNblk => rfl
  | _ => cases q <;> first | exact absurd rfl h | rfl

theorem State.storeReg_readOnly (s : State) (v : Word) {r : Reg} (h : readOnly r = true) : s.storeReg v r = s := by
  cases r <;> first | rfl | cases h

/-- A RW register is none of the two whose write starts an action. -/
theorem no_action_of_rwMask {r : Reg} {m : Word} (h : rwMask r = some m) : r ≠ .cmd ∧ r ≠ .ctrl := by
  constructor <;> rintro rfl <;> cases h

theorem no_action_of_readOnly {r : Reg} (h : readOnly r = true) : r ≠ .cmd ∧ r ≠ .ctrl := by
  constructor <;> rintro rfl <;> cases h

/-! ## Reads and writes by region (20_memory.md R71, R72) -/

/-- The buffers that the host may write. -/
def HostWritable (off : Nat) : Prop :=
  regionOf off = .bitbuf ∨ regionOf off = .cin ∨ regionOf off = .symbuf ∨ regionOf off = .samples

/-- The reserved offsets: those of the reserved ranges, and those of REGS that no register has. -/
def Reserved (off : Nat) : Prop := regionOf off = .reserved ∨ (regionOf off = .regs ∧ ∀ r : Reg, off ≠ r.offset)

theorem HostWritable.isBuffer {off : Nat} (h : HostWritable off) : isBuffer off = true := by
  rcases h with h | h | h | h <;> simp [Machine.isBuffer, h]

theorem Reserved.not_isBuffer {off : Nat} (h : Reserved off) : isBuffer off = false := by
  rcases h with h | ⟨h, -⟩ <;> simp [isBuffer, h]

theorem HostWritable.lt {off : Nat} (h : HostWritable off) : off < 0x8000 := by
  simp only [HostWritable, regionOf_bitbuf, regionOf_cin, regionOf_symbuf, regionOf_samples] at h
  omega

theorem Reserved.regAt?_eq_none {off : Nat} (h : Reserved off) : regAt? off = none := by
  rcases h with h | ⟨-, hr⟩
  · refine Machine.regAt?_eq_none.2 ?_
    rintro r rfl
    simp at h
  · exact Machine.regAt?_eq_none.2 hr

@[simp] theorem State.readWord_offset (s : State) (r : Reg) : s.readWord r.offset = s.readReg r := by
  simp [State.readWord]

theorem State.readWord_buffer (s : State) {off : Nat} (h : isBuffer off = true) : s.readWord off = s.mem.word off := by
  unfold State.readWord
  split <;> simp_all [isBuffer]

theorem State.readWord_reserved (s : State) {off : Nat} (h : Reserved off) : s.readWord off = 0#32 := by
  have hnone := h.regAt?_eq_none
  rcases h with h | ⟨h, -⟩ <;> simp [State.readWord, h, hnone]

@[simp] theorem State.readWord_answer (s : State) (a : BusResponse) (off : Nat) :
    (s.answer a).readWord off = s.readWord off := by
  simp only [State.readWord, State.readReg_answer, State.answer_mem]

theorem State.storeWord_buffer (s : State) (v : Word) {off : Nat} (h : HostWritable off) :
    s.storeWord off v = s.storeBuffer off v := by
  rcases h with h | h | h | h <;> simp [State.storeWord, h]

theorem State.storeWord_readOnlyBuffer (s : State) (v : Word) {off : Nat}
    (h : regionOf off = .syncOut ∨ regionOf off = .cout) : s.storeWord off v = s := by
  rcases h with h | h <;> simp [State.storeWord, h]

theorem State.storeWord_reserved (s : State) (v : Word) {off : Nat} (h : Reserved off) : s.storeWord off v = s := by
  have hnone := h.regAt?_eq_none
  rcases h with h | ⟨h, -⟩ <;> simp [State.storeWord, h, hnone]

/-- No command has a reserved offset as an output, so that a read there is exact at any time. -/
theorem State.openMask_reserved (s : State) {off : Nat} (h : Reserved off) : s.openMask off = 0#32 := by
  unfold State.openMask
  split
  · rfl
  · rename_i i _
    have hout : off ∉ s.outputWords i := by
      intro hmem
      have hbuf := ownBuffer_isBuffer (State.outputWords_inside hmem (Nat.le_refl off) (by omega))
      simp [h.not_isBuffer] at hbuf
    simp [h.regAt?_eq_none, hout]

/-! ## Accesses while no command runs -/

theorem State.hostAccess_read_idle {s : State} {off : Nat} (he : s.eng = .idle) (hr : s.rstN = true)
    (ha : off % 4 = 0) (hoff : off < 0x8000) :
    s.hostAccess (.read 4 off) = s.answer (.data (s.readWord off)) := by
  rw [State.hostAccess_read (State.performs_iff.2 ⟨rfl, ha, hoff, hr⟩),
    State.hostRead_exact (State.openMask_idle he off)]

theorem State.hostAccess_write_idle {s : State} {off : Nat} (v : Word) (he : s.eng = .idle) (hr : s.rstN = true)
    (ha : off % 4 = 0) (hoff : off < 0x8000) :
    s.hostAccess (.write 4 off v) = (s.storeWord off v).answer .accepted := by
  rw [State.hostAccess_write (State.performs_iff.2 ⟨rfl, ha, hoff, hr⟩), State.hostWrite_performed v (.inl he)]

theorem State.hostAccess_write_reg {s : State} {r : Reg} (v : Word) (he : s.eng = .idle) (hr : s.rstN = true)
    (h : r ≠ .cmd ∧ r ≠ .ctrl) : s.hostAccess (.write 4 r.offset v) = (s.storeReg v r).answer .accepted := by
  have hlt := r.offset_lt
  rw [State.hostAccess_write_idle v he hr r.offset_aligned (by omega), State.storeWord_reg h.1 h.2]

theorem State.hostAccess_write_buffer {s : State} {off : Nat} (v : Word) (he : s.eng = .idle) (hr : s.rstN = true)
    (ha : off % 4 = 0) (h : HostWritable off) :
    s.hostAccess (.write 4 off v) = (s.storeBuffer off v).answer .accepted := by
  rw [State.hostAccess_write_idle v he hr ha h.lt, State.storeWord_buffer s v h]

theorem State.mem_hostAccess_write_buffer {s : State} {off : Nat} (v : Word) (he : s.eng = .idle) (hr : s.rstN = true)
    (ha : off % 4 = 0) (h : HostWritable off) : (s.hostAccess (.write 4 off v)).mem = s.mem.setWord off v := by
  rw [State.hostAccess_write_buffer v he hr ha h, State.answer_mem, State.storeBuffer_mem]

/-! ## The accessors of a written word (20_memory.md R78 to R82) -/

theorem Memory.sample_setWord (m : Memory) (k : Nat) (v : Word) :
    ((m.setWord (samplesBase + 4 * k) v).sample k).re = (v.extractLsb' 0 16).toInt ∧
      ((m.setWord (samplesBase + 4 * k) v).sample k).im = (v.extractLsb' 16 16).toInt := by
  simp only [Memory.sample, Memory.word_setWord_same, and_self]

theorem Memory.sym_setWord (m : Memory) (k : Nat) (v : Word) :
    ((m.setWord (symbufBase + 4 * (k / 16)) v).sym k).getLsbD 1 = v.getLsbD (31 - 2 * (k % 16)) ∧
      ((m.setWord (symbufBase + 4 * (k / 16)) v).sym k).getLsbD 0 = v.getLsbD (30 - 2 * (k % 16)) := by
  rw [Memory.sym, Memory.word_setWord_same, show 31 - 2 * (k % 16) = 30 - 2 * (k % 16) + 1 by omega]
  simp

theorem Memory.bit_setWord (m : Memory) (base j : Nat) (v : Word) :
    (m.setWord (base + 4 * (j / 32)) v).bit base j = v.getLsbD (31 - j % 32) := by
  rw [Memory.bit, bitWordAt, Memory.word_setWord_same]

theorem Memory.cin_setWord (m : Memory) (i : Nat) (v : Word) :
    (m.setWord (cinBase + 4 * (i / 4)) v).cin i = wordByte v (i % 4) := by
  rw [Memory.cin, Memory.byte_setWord, if_pos (by omega)]
  congr 1
  omega

end Sys2Proof.Machine

namespace Sys2Proof.Proofs

open Sys2Proof.Machine

/-- Settles O42: an Idle engine leaves no bit of a read open, and a read leaves every word as it was. -/
theorem idleReadsAnswerTheWordAndChangeNothing : Obligations.IdleReadsAnswerTheWordAndChangeNothing := by
  refine ⟨fun s off he hr ha hoff => ?_, fun s => ⟨s.readsFields, s.readWord_offset, fun _ => s.readWord_buffer⟩⟩
  have hread := State.hostAccess_read_idle he hr ha hoff
  refine ⟨hread, ?_⟩
  rw [hread, State.hostAccess_read_idle (s := s.answer _) he hr ha hoff, State.readWord_answer]
  rfl

/-- Settles O43: the register's own fields read back under its mask, and the registers share no field. -/
theorem registerWritesReadBackMasked : Obligations.RegisterWritesReadBackMasked := by
  intro s r m v he hr hm
  rw [State.hostAccess_write_reg v he hr (no_action_of_rwMask hm)]
  have hlt := r.offset_lt
  obtain ⟨-, -, -, -, -, -, -, -, -, -, heng, -, hrst, -⟩ := s.storeReg_keeps v r
  constructor
  · rw [State.hostAccess_read_idle (s := (s.storeReg v r).answer .accepted) (heng.trans he) (hrst.trans hr)
      r.offset_aligned (by omega), State.readWord_answer, State.readWord_offset, State.readReg_storeReg_same s v hm,
      State.answer_response]
  · intro q hq
    rw [State.readReg_answer, State.readReg_storeReg_ne s v hq]

/-- Settles O44: each kind of ignored write stores nothing, and a reserved offset is no command's output. -/
theorem ignoredWritesChangeNothing : Obligations.IgnoredWritesChangeNothing := by
  intro s off v hr ha hoff
  constructor
  · intro he h
    have hstore : s.storeWord off v = s := by
      rcases h with ⟨r, hro, rfl⟩ | h | h | h
      · obtain ⟨hc, ht⟩ := no_action_of_readOnly hro
        rw [State.storeWord_reg hc ht, State.storeReg_readOnly s v hro]
      · exact s.storeWord_readOnlyBuffer v (.inl h)
      · exact s.storeWord_readOnlyBuffer v (.inr h)
      · exact s.storeWord_reserved v h
    rw [State.hostAccess_write_idle v he hr ha hoff, hstore]
    rfl
  · intro (h : Reserved off)
    rw [State.hostAccess_read (State.performs_iff.2 ⟨rfl, ha, hoff, hr⟩), State.hostRead_exact (s.openMask_reserved h),
      s.readWord_reserved h]
    rfl

/-- Settles O45: the write is one `Memory.setWord`, whose bytes and word read back; no register reads the buffers. -/
theorem bufferWritesReadBack : Obligations.BufferWritesReadBack := by
  intro s off v he hr ha (h : HostWritable off)
  rw [State.hostAccess_write_buffer v he hr ha h]
  refine ⟨?_, fun b hb => ?_, fun a hout => ?_, fun r => ?_⟩
  · rw [State.hostAccess_read_idle (s := (s.storeBuffer off v).answer .accepted) he hr ha h.lt,
      State.readWord_answer, State.readWord_buffer _ h.isBuffer, State.storeBuffer_mem, Memory.word_setWord_same,
      State.answer_response]
  · rw [State.answer_mem, State.storeBuffer_mem, Memory.byte_setWord, if_pos (by omega),
      Nat.add_sub_cancel_left, wordByte]
  · rw [State.answer_mem, State.storeBuffer_mem, Memory.byte_setWord, if_neg (by omega)]
  · rw [State.readReg_answer, State.readReg_storeBuffer]

/-- Settles O46: in each buffer the accessor looks up the written word at its own place. -/
theorem accessorsFollowTheLayouts : Obligations.AccessorsFollowTheLayouts := by
  intro s v he hr
  have hmem {off : Nat} := State.mem_hostAccess_write_buffer (off := off) v he hr
  refine ⟨fun k hk => ?_, fun k hk => ?_, fun j hj => ?_, fun j hj => ?_, fun i hi => ?_, fun k => ?_⟩
  · rw [hmem (by omega) (.inr (.inr (.inr (regionOf_samples.2 (by omega)))))]
    exact s.mem.sample_setWord k v
  · rw [hmem (by omega) (.inr (.inr (.inl (regionOf_symbuf.2 (by omega)))))]
    exact s.mem.sym_setWord k v
  · rw [hmem (by omega) (.inr (.inr (.inl (regionOf_symbuf.2 (by omega)))))]
    exact s.mem.bit_setWord symbufBase j v
  · rw [hmem (by omega) (.inl (regionOf_bitbuf.2 (by omega)))]
    exact s.mem.bit_setWord bitbufBase j v
  · rw [hmem (by omega) (.inr (.inl (regionOf_cin.2 (by omega))))]
    exact s.mem.cin_setWord i v
  · exact ⟨(s.mem.sym_getLsbD k).1.symm, (s.mem.sym_getLsbD k).2.symm⟩

end Sys2Proof.Proofs
end

section
/-! PROOFS. The decoder and the encoder (30_encoding.md R100 to R103): O1, O2, O3. -/

namespace Sys2Proof

/-! ## The opcode map (R102) -/

theorem opcodeOf?_opcode (i : Instr) : opcodeOf? (opcode i).toNat = some i := by cases i <;> rfl

theorem opcodeOf?_eq_some_iff {n : Nat} {i : Instr} : opcodeOf? n = some i ↔ n = (opcode i).toNat := by
  constructor
  · intro h
    unfold opcodeOf? at h
    split at h <;> cases h <;> rfl
  · rintro rfl
    exact opcodeOf?_opcode i

theorem opcode_lt (i : Instr) : (opcode i).toNat < 0x09 := by cases i <;> decide

theorem opcodeOf?_eq_none_iff {n : Nat} : opcodeOf? n = none ↔ 0x09 ≤ n := by
  constructor
  · intro h
    by_contra hn
    interval_cases n <;> cases h
  · intro h
    cases hop : opcodeOf? n with
    | none => rfl
    | some i =>
      have hlt := opcode_lt i
      rw [opcodeOf?_eq_some_iff.1 hop] at h
      omega

/-! ## The two fields of a command word (R100) -/

theorem eq_encode_iff {w : Word} {i : Instr} :
    w = encode i ↔ w.extractLsb' 8 24 = 0#24 ∧ w.extractLsb' 0 8 = opcode i := by
  constructor
  · rintro rfl
    cases i <;> exact ⟨rfl, rfl⟩
  · rintro ⟨hrsvd, hop⟩
    calc w = w.extractLsb' 8 24 ++ w.extractLsb' 0 8 := (Machine.append_extractLsb' (a := 24) (b := 8) w).symm
      _ = encode i := by rw [hrsvd, hop, encode]

/-! ## What `decode` answers (R101, R103) -/

theorem decode_of_rsvd_set {w : Word} (h : w.extractLsb' 8 24 ≠ 0#24) : decode w = .error .reservedBitsSet := by
  rw [decode, if_neg h]

theorem decode_of_opcode {w : Word} {i : Instr} (hrsvd : w.extractLsb' 8 24 = 0#24)
    (hop : opcodeOf? (w.extractLsb' 0 8).toNat = some i) : decode w = .ok i := by
  rw [decode, if_pos hrsvd, hop]

theorem decode_of_no_opcode {w : Word} (hrsvd : w.extractLsb' 8 24 = 0#24)
    (hop : opcodeOf? (w.extractLsb' 0 8).toNat = none) : decode w = .error .unassignedOpcode := by
  rw [decode, if_pos hrsvd, hop]

theorem decode_eq_ok_iff {w : Word} {i : Instr} :
    decode w = .ok i ↔ w.extractLsb' 8 24 = 0#24 ∧ w.extractLsb' 0 8 = opcode i := by
  by_cases hrsvd : w.extractLsb' 8 24 = 0#24
  · rw [← BitVec.toNat_inj (y := opcode i), ← opcodeOf?_eq_some_iff]
    cases hop : opcodeOf? (w.extractLsb' 0 8).toNat with
    | some j => simp [decode_of_opcode hrsvd hop, hrsvd]
    | none => simp [decode_of_no_opcode hrsvd hop]
  · simp [decode_of_rsvd_set hrsvd, hrsvd]

theorem decode_eq_ok_iff_eq_encode {w : Word} {i : Instr} : decode w = .ok i ↔ w = encode i :=
  decode_eq_ok_iff.trans eq_encode_iff.symm

theorem decode_encode (i : Instr) : decode (encode i) = .ok i := decode_eq_ok_iff_eq_encode.2 rfl

/-- The illegal words of R103, whichever of the two errors the decoder names. -/
theorem exists_decode_eq_error_iff {w : Word} :
    (∃ e, decode w = .error e) ↔ (w.extractLsb' 8 24 ≠ 0#24 ∨ 0x09 ≤ (w.extractLsb' 0 8).toNat) := by
  by_cases hrsvd : w.extractLsb' 8 24 = 0#24
  · rw [← opcodeOf?_eq_none_iff]
    cases hop : opcodeOf? (w.extractLsb' 0 8).toNat with
    | some i => simp [decode_of_opcode hrsvd hop, hrsvd]
    | none => simp [decode_of_no_opcode hrsvd hop]
  · simp [decode_of_rsvd_set hrsvd, hrsvd]

end Sys2Proof

namespace Sys2Proof.Proofs

/-- Settles O2: both sides say that RSVD is 0 and OPCODE is the command's. -/
theorem decodeIsTheInverseOfEncode : Obligations.DecodeIsTheInverseOfEncode := fun _ _ => decode_eq_ok_iff_eq_encode

/-- Settles O3: the decoder tests RSVD first and then looks OPCODE up in a map that ends at 0x08. -/
theorem illegalWordsAreExactlyThoseOfTheRule : Obligations.IllegalWordsAreExactlyThoseOfTheRule :=
  fun _ => exists_decode_eq_error_iff

/-- Settles O1: each of the nine words is the encoding of its command. -/
theorem nineWordsDecodeToTheirCommands : Obligations.NineWordsDecodeToTheirCommands :=
  ⟨decode_encode .nop, decode_encode .demod, decode_encode .sync, decode_encode .burst, decode_encode .crcGen,
    decode_encode .crcCheck, decode_encode .teaKey, decode_encode .teaDec, decode_encode .teaBlk⟩

end Sys2Proof.Proofs
end

section
/-! PROOFS. A command from its CMD write to its completion (40_command.md R120 to R128), for every word, and O6. -/

namespace Sys2Proof.Spec

open Sys2Proof.Machine

theorem KeepsResults.trans {s t u : State} (h : KeepsResults s t) (k : KeepsResults t u) : KeepsResults s u where
  demodOut := k.demodOut.trans h.demodOut
  symCount := k.symCount.trans h.symCount
  syncResult := k.syncResult.trans h.syncResult
  burstResult := k.burstResult.trans h.burstResult
  burstTs := k.burstTs.trans h.burstTs
  crcValue := k.crcValue.trans h.crcValue
  crcResult := k.crcResult.trans h.crcResult
  teaNblk := k.teaNblk.trans h.teaNblk
  lk := k.lk.trans h.lk

end Sys2Proof.Spec

namespace Sys2Proof.Machine

open Sys2Proof.Spec

/-! ## Completion and frames -/

/-- `complete` writes STATUS, ERR_INFO, IRQ_STATUS and ENG, and no output (40_command.md R123). -/
theorem State.complete_failsWith (s : State) (c : Code) (v : Word) : FailsWith s (s.complete c v) c.byte v where
  completes := ⟨rfl, rfl, rfl, rfl, rfl, by simp [Code.isError]⟩
  operands := by constructor <;> rfl
  results := by constructor <;> rfl
  mem := rfl

theorem State.Agrees.keepsResults {s t : State} (h : s.Agrees t) : KeepsResults s t :=
  ⟨h.demodOut, h.symCount, h.syncResult, h.burstResult, h.burstTs, h.crcValue, h.crcResult, h.teaNblk, h.lk⟩

theorem State.keepsResults_start (s : State) (w : Word) (d : Nat) : KeepsResults s (s.start w d) := by
  constructor <;> rfl

/-! ## Turns of the outside world while a command runs -/

/-- `t` is what `s` can become by waiting: all that a command reads or writes, and STATUS.OP, are as before and `rst_n`
stays released; the engine is at `e` and `rest` is still to come. -/
structure State.WaitsTo (s : State) (e : Engine) (rest : List Input) (t : State) : Prop where
  agrees : s.Agrees t
  op : t.status.op = s.status.op
  released : s.rstN = true → t.rstN = true
  eng : t.eng = e
  inputs : t.inputs = rest

theorem State.WaitsTo.refl (s : State) : s.WaitsTo s.eng s.inputs s := ⟨.refl s, rfl, id, rfl, rfl⟩

theorem State.WaitsTo.trans {s t u : State} {e e' : Engine} {rest rest' : List Input} (h : s.WaitsTo e rest t)
    (k : t.WaitsTo e' rest' u) : s.WaitsTo e' rest' u :=
  ⟨h.agrees.trans k.agrees, k.op.trans h.op, fun hr => k.released (h.released hr), k.eng, k.inputs⟩

theorem State.waitsTo_answer (s : State) (r : BusResponse) : s.WaitsTo s.eng s.inputs (s.answer r) :=
  ⟨by constructor <;> rfl, rfl, id, rfl, rfl⟩

theorem State.waitsTo_drawn (s : State) : s.WaitsTo s.eng s.inputs s.drawn :=
  ⟨by constructor <;> rfl, rfl, id, rfl, rfl⟩

theorem State.waitsTo_releaseReset (s : State) : s.WaitsTo s.eng s.inputs s.releaseReset :=
  ⟨by constructor <;> rfl, rfl, fun _ => rfl, rfl, rfl⟩

theorem State.waitsTo_waited (s : State) (rest : List Input) : s.WaitsTo s.eng.tick rest (s.waited rest) :=
  ⟨by constructor <;> rfl, rfl, id, rfl, rfl⟩

/-- WBUSY and the interrupt registers are no operands and no outputs of a command. -/
theorem State.waitsTo_control (s : State) (b : Bool) (q : IrqRegs) :
    s.WaitsTo s.eng s.inputs { s with status := { s.status with wbusy := b }, irq := q } :=
  ⟨by constructor <;> rfl, rfl, id, rfl, rfl⟩

/-- The four registers that stay writable (40_command.md R125) hold no operand; CTRL only has the soft reset. -/
theorem State.waitsTo_storeWord (s : State) {off : Nat} {v : Word} (hw : writableWhileBusy off = true)
    (hv : ¬(off = 0x014 ∧ v.getLsbD 0 = true)) : s.WaitsTo s.eng s.inputs (s.storeWord off v) := by
  rcases writableWhileBusy_iff.1 hw with rfl | rfl | rfl | rfl
  · exact s.waitsTo_control (s.status.wbusy && !v.getLsbD 24) s.irq
  · exact s.waitsTo_control s.status.wbusy { s.irq with doneEn := v.getLsbD 0, errEn := v.getLsbD 1 }
  · exact s.waitsTo_control s.status.wbusy (s.ackIrq v).irq
  · rw [State.storeWord_ctrl, if_neg fun h => hv ⟨rfl, h⟩]
    exact .refl s

theorem State.waitsTo_hostAccess {s : State} {d : Nat} (he : s.eng = .running d) {a : Access}
    (ha : harmless (.access a)) : s.WaitsTo s.eng s.inputs (s.hostAccess a) := by
  rcases s.hostAccess_cases a with ⟨r, e | e⟩ | ⟨-, e⟩ | ⟨off, v, rfl, -, -, hw, e⟩ <;> rw [e]
  · exact s.waitsTo_answer r
  · exact s.waitsTo_drawn.trans (s.drawn.waitsTo_answer r)
  · exact (s.waitsTo_control true s.irq).trans (s.dropWrite.waitsTo_answer .accepted)
  · have hstore := s.waitsTo_storeWord (hw.resolve_left (by simp [he])) ha
    have hanswer := (s.storeWord off v).waitsTo_answer .accepted
    rw [hstore.eng, hstore.inputs] at hanswer
    exact hstore.trans hanswer

theorem State.waitsTo_applyInput {s : State} {d : Nat} (he : s.eng = .running d) {x : Input} (hx : harmless x) :
    s.WaitsTo s.eng s.inputs (s.applyInput x) := by
  cases x with
  | idle => exact .refl s
  | access a => exact State.waitsTo_hostAccess he hx
  | assertReset => exact hx.elim
  | releaseReset => exact s.waitsTo_releaseReset

/-- One turn short of a reset takes the delay down by one and changes nothing that the command reads or writes. -/
theorem State.waitsTo_hostTurn {s : State} {d : Nat} (he : s.eng = .running (d + 1))
    (hx : ∀ x ∈ s.inputs.head?, harmless x) : s.WaitsTo (.running d) s.inputs.tail s.hostTurn := by
  have hwaited (rest : List Input) : s.WaitsTo (.running d) rest (s.waited rest) := by
    simpa [he] using s.waitsTo_waited rest
  rcases s.hostTurn_cases with ⟨hin, e⟩ | ⟨x, rest, hin, e⟩ <;> rw [e, hin]
  · exact hwaited []
  · have happly := State.waitsTo_applyInput (hwaited rest).eng (hx x (by simp [hin]))
    rw [(hwaited rest).eng] at happly
    exact (hwaited rest).trans happly

/-! ## Several steps -/

theorem steps_succ_of_step {s t : State} (h : step s = .next t) (n : Nat) : steps (n + 1) s = steps n t := by
  rw [steps, h]

theorem steps_one_of_step {s t : State} (h : step s = .next t) : steps 1 s = some t := steps_succ_of_step h 0

theorem steps_add {m : Nat} {s t : State} (h : steps m s = some t) (n : Nat) : steps (m + n) s = steps n t := by
  induction m generalizing s with
  | zero => cases h; rw [Nat.zero_add]
  | succ m ih =>
    cases hs : step s with
    | next u =>
      rw [steps_succ_of_step hs] at h
      rw [Nat.add_right_comm, steps_succ_of_step hs, ih h]
    | fault r => simp [steps, hs] at h
    | refused r => simp [steps, hs] at h

/-- A running command waits for as many turns as its delay has (40_command.md R122), by induction on the delay. -/
theorem steps_running (d : Nat) {s : State} (he : s.eng = .running d) (hx : ∀ x ∈ s.inputs.take d, harmless x) :
    ∃ t, steps d s = some t ∧ s.WaitsTo (.running 0) (s.inputs.drop d) t := by
  induction d generalizing s with
  | zero => exact ⟨s, rfl, he ▸ .refl s⟩
  | succ d ih =>
    have hhead : ∀ x ∈ s.inputs.head?, harmless x := fun x hmem =>
      hx x (List.mem_of_mem_head? (by simpa [List.head?_take] using hmem))
    have hturn := State.waitsTo_hostTurn he hhead
    have htail : ∀ x ∈ s.hostTurn.inputs.take d, harmless x := fun x hmem =>
      hx x (List.mem_of_mem_tail (by rwa [List.tail_take_eq_take_tail, Nat.add_sub_cancel, ← hturn.inputs]))
    obtain ⟨t, hsteps, ht⟩ := ih hturn.eng htail
    rw [hturn.inputs, List.drop_tail] at ht
    exact ⟨t, by rw [steps_succ_of_step (step_host (.inr (.inl ⟨d, he⟩))), hsteps], hturn.trans ht⟩

/-! ## The start of a command -/

/-- The host's CMD write while ENG is Idle (40_command.md R120, R121). -/
theorem step_cmdWrite {s : State} {w : Word} {rest : List Input} (he : s.eng = .idle) (hr : s.rstN = true)
    (hin : s.inputs = .access (.write 4 0x004 w) :: rest) :
    step s = .next (((s.waited rest).startCommand w).answer .accepted) := by
  have hidle : (s.waited rest).eng = .idle := by simp [he]
  rw [step_host_cons (.inl he) hin, State.applyInput, State.hostAccess_write_idle w hidle hr rfl (by decide),
    State.storeWord_cmd]

/-- From its CMD write to the turn that completes it, a command of any word keeps all that it will read, as it stood at
the write. -/
theorem steps_cmdWrite {s : State} {w : Word} {rest : List Input} (he : s.eng = .idle) (hr : s.rstN = true)
    (hin : s.inputs = .access (.write 4 0x004 w) :: rest) (hx : ∀ x ∈ rest, harmless x) :
    ∃ n t, steps n s = some t ∧ (s.start w 0).WaitsTo (.running 0) (rest.drop (Config.latency s.draws)) t := by
  have hstarted : (s.start w 0).WaitsTo (.running (Config.latency s.draws)) rest
      (((s.waited rest).startCommand w).answer .accepted) :=
    ⟨by constructor <;> rfl, rfl, id, rfl, rfl⟩
  obtain ⟨t, hsteps, ht⟩ := steps_running _ hstarted.eng fun x hmem => hx x (List.mem_of_mem_take hmem)
  exact ⟨_, t, (steps_succ_of_step (step_cmdWrite he hr hin) _).trans hsteps, hstarted.trans ht⟩

/-! ## The illegal command -/

/-- The completion step of an illegal word (40_command.md R128). -/
theorem step_of_illegal_word {s : State} (hr : s.rstN = true) (he : s.eng = .running 0)
    (hw : s.cmd.extractLsb' 8 24 ≠ 0#24 ∨ 0x09 ≤ (s.cmd.extractLsb' 0 8).toNat) :
    ∃ t, step s = .next t ∧ FailsWith s t 0x07#8 s.cmd := by
  obtain ⟨e, hd⟩ := exists_decode_eq_error_iff.2 hw
  exact ⟨_, step_illegal hr he hd, s.complete_failsWith .badCommand s.cmd⟩

end Sys2Proof.Machine

namespace Sys2Proof.Proofs

open Sys2Proof.Machine Sys2Proof.Spec

/-- Settles O6: an illegal word waits in CMD like any other, and the step that finds it there completes BAD_COMMAND. -/
theorem illegalCommandCompletesBadCommand : Obligations.IllegalCommandCompletesBadCommand := by
  refine ⟨fun s => step_of_illegal_word, fun s w rest he hr hw hin hx => ?_⟩
  obtain ⟨n, u, hsteps, hu⟩ := steps_cmdWrite he hr hin hx
  have hcmd : u.cmd = w := hu.agrees.cmd
  obtain ⟨t, hstep, hfail⟩ := step_of_illegal_word (hu.released hr) hu.eng (by rwa [hcmd])
  have herr : t.irq.err = true := by rw [hfail.completes.irqErr]; exact Bool.or_true _
  have hresults := ((s.keepsResults_start w 0).trans hu.agrees.keepsResults).trans hfail.results
  exact ⟨n + 1, t, (steps_add hsteps 1).trans (steps_one_of_step hstep), hfail.completes.idle, hfail.completes.done,
    hfail.completes.code, hfail.operands.op.trans hu.op, hfail.completes.info.trans hcmd, hfail.completes.irqDone, herr,
    hfail.operands.cmd.trans hcmd, hresults, hfail.mem.trans hu.agrees.mem⟩

end Sys2Proof.Proofs
end

section
/-! PROOFS. Reads and writes while a command runs (40_command.md R125, R126) and the soft reset (R129): O47 to O50. -/

namespace Sys2Proof.Machine

open Sys2Proof.Spec

/-! ## What a command's rule lists as outputs -/

/-- The model's output words are those that the rule lists, computed from what the command answers: the result registers
hold M and K without loss. -/
theorem State.outputWords_eq_listedWords {i : Instr} {s t : State} (h : exec i s = .next t) :
    s.outputWords i = wordsAt (listedWords s t i).1 (listedWords s t i).2 := by
  have hok := exec_code_eq_ok h
  cases i with
  | nop | crcGen | crcCheck | teaKey | burst | teaDec | teaBlk => rfl
  | demod =>
    simp only [State.outputWords, listedWords, hok, State.checkOf]
    by_cases hc : s.demodCheck = none
    · cases (exec_of_ok (i := .demod) hc).symm.trans h
      have hle := s.length_demodSymbols_le
      have hnsamp := (s.demodCheck_eq_none.1 hc).2
      have hcount : (BitVec.ofNat 13 s.demodSymbols.length).toNat = s.demodSymbols.length :=
        by rw [BitVec.toNat_ofNat, Nat.mod_eq_of_lt (by omega)]
      simp only [if_pos hc, State.outputsOf, State.complete_symCount, State.demodOutputs_symCount, hcount]
      rfl
    · simp only [if_neg hc]
      rfl
  | sync =>
    simp only [State.outputWords, listedWords, hok, State.checkOf]
    by_cases hc : s.syncCheck = none
    · cases (exec_of_ok (i := .sync) hc).symm.trans h
      have hcount : (s.syncOutputs.complete .ok 0#32).syncResult.count.toNat = s.syncEntries.length := by
        simp [State.syncEntries, Config.syncCap, Nat.min_comm]
      simp only [if_pos hc, State.outputsOf, hcount]
      rfl
    · simp only [if_neg hc]
      rfl

/-- The same bits of each register, by name and by byte offset. -/
theorem listedBits_offset (i : Instr) (r : Reg) : listedBits i r.offset = outputMask i r := by
  cases i <;> cases r <;> rfl

theorem listedBits_of_regAt?_eq_none (i : Instr) {off : Nat} (h : regAt? off = none) : listedBits i off = 0#32 := by
  unfold listedBits
  split <;> first | rfl | cases h

/-- The listed words of a buffer are the aligned byte offsets in its range, none of them a register's. -/
theorem mem_wordsAt_iff_of_aligned {base n off : Nat} (hb : base % 4 = 0) (ha : off % 4 = 0) :
    off ∈ wordsAt base n ↔ base ≤ off ∧ off < base + 4 * n := by
  rw [mem_wordsAt]
  constructor
  · rintro ⟨k, hk, rfl⟩
    omega
  · intro h
    exact ⟨(off - base) / 4, by omega, by omega⟩

theorem listedWords_aligned (s t : State) (i : Instr) : (listedWords s t i).1 % 4 = 0 := by
  cases i <;> simp [listedWords]

/-- No register lies in the range of a command's output words: an empty one, or one of a buffer. -/
theorem listedWords_not_reg (s t : State) (i : Instr) (r : Reg) :
    ¬((listedWords s t i).1 ≤ r.offset ∧ r.offset < (listedWords s t i).1 + 4 * (listedWords s t i).2) := by
  have hlt := r.offset_lt
  cases i <;> simp only [listedWords] <;> omega

/-- The bits that a read finds unspecified while a command runs are those its rule lists (40_command.md R126). -/
theorem State.openMask_eq_listedOutputs {i : Instr} {s t : State} {d off : Nat} (he : s.eng = .running d)
    (hd : decode s.cmd = .ok i) (h : exec i s = .next t) (ha : off % 4 = 0) :
    s.openMask off = listedOutputs s t i off := by
  rw [State.openMask, State.runningOp_running he hd, listedOutputs]
  cases hreg : regAt? off with
  | some r =>
    obtain rfl := regAt?_eq_some.1 hreg
    simp only [if_neg (listedWords_not_reg s t i r), listedBits_offset]
  | none =>
    simp only [State.outputWords_eq_listedWords h, mem_wordsAt_iff_of_aligned (listedWords_aligned s t i) ha,
      listedBits_of_regAt?_eq_none i hreg]

/-! ## Reads while a command runs -/

/-- A read may draw a free value; its answer is the current value in every bit outside the open ones. -/
theorem State.hostRead_exact_outside_openMask (s : State) (off : Nat) :
    ∃ w n, s.hostRead off = { s with response := some (.data w), draws := n } ∧
      w &&& ~~~(s.openMask off) = s.readWord off &&& ~~~(s.openMask off) := by
  simp only [State.hostRead]
  split
  · exact ⟨_, s.draws, rfl, rfl⟩
  · refine ⟨_, s.draws + 1, rfl, ?_⟩
    apply BitVec.eq_of_getLsbD_eq
    intro k hk
    simp only [BitVec.getLsbD_and, BitVec.getLsbD_or, BitVec.getLsbD_not, hk]
    cases (s.openMask off).getLsbD k <;> simp

/-! ## Writes at any time -/

/-- A write to one of the four registers of 40_command.md R125 takes effect whether a command runs or not. -/
theorem State.hostAccess_write_any_time {s : State} {off : Nat} (v : Word) (hr : s.rstN = true)
    (hw : writableWhileBusy off = true) :
    s.hostAccess (.write 4 off v) = (s.storeWord off v).answer .accepted := by
  have hperf : s.performs 4 off = true := by
    rw [State.performs_iff]
    rcases writableWhileBusy_iff.1 hw with rfl | rfl | rfl | rfl <;> exact ⟨rfl, rfl, by decide, hr⟩
  rw [State.hostAccess_write hperf, State.hostWrite_performed v (.inr hw)]

theorem State.hostAccess_softReset {s : State} {v : Word} (hr : s.rstN = true) (hv : v.getLsbD 0 = true) :
    s.hostAccess (.write 4 0x014 v) = s.softReset.answer .accepted := by
  rw [State.hostAccess_write_any_time v hr rfl, State.storeWord_ctrl, if_pos hv]

/-- Any other write is dropped while a command runs. -/
theorem State.hostAccess_write_dropped {s : State} {d off : Nat} (v : Word) (he : s.eng = .running d)
    (hr : s.rstN = true) (ha : off % 4 = 0) (hoff : off < 0x8000) (hw : writableWhileBusy off = false) :
    s.hostAccess (.write 4 off v) = s.dropWrite.answer .accepted := by
  rw [State.hostAccess_write (State.performs_iff.2 ⟨rfl, ha, hoff, hr⟩), State.hostWrite_dropped v he hw]

/-! ## The soft reset -/

/-- A soft reset puts every register at its row of the reset column (10_state.md R59). -/
theorem State.readReg_softReset (s : State) (r : Reg) : s.softReset.readReg r = resetValue r := by
  calc s.softReset.readReg r = State.reset.readReg r := by cases r <;> rfl
    _ = resetValue r := Proofs.resetStateReadsTheResetColumn r

end Sys2Proof.Machine

namespace Sys2Proof.Proofs

open Sys2Proof.Machine Sys2Proof.Spec

/-- Settles O47: a write that is not to one of the four registers is dropped, and each of the four takes effect. -/
theorem busyWritesAreDropped : Obligations.BusyWritesAreDropped := by
  intro s off v hr ha hoff
  refine ⟨fun d he h1 h2 h3 h4 => ?_, ?_, ?_, ?_, ?_, ?_⟩
  · exact State.hostAccess_write_dropped v he hr ha hoff (by simp [writableWhileBusy, h1, h2, h3, h4])
  · rintro rfl
    exact State.hostAccess_write_any_time v hr rfl
  · rintro rfl
    exact State.hostAccess_write_any_time v hr rfl
  · rintro rfl
    exact State.hostAccess_write_any_time v hr rfl
  · rintro rfl hv
    exact State.hostAccess_softReset hr hv
  · rintro rfl hv
    rw [State.hostAccess_write_any_time v hr rfl, State.storeWord_ctrl, if_neg (by rw [hv]; decide)]
    rfl

/-- Settles O48: the open bits of a read are the listed outputs of the running command, none for the illegal one. -/
theorem busyReadsAreExactOutsideOutputs : Obligations.BusyReadsAreExactOutsideOutputs := by
  intro s d off he hr ha hoff
  obtain ⟨w, n, hread, hexact⟩ := s.hostRead_exact_outside_openMask off
  refine ⟨w, n, ?_, fun i t hd hx => ?_, fun e hd => ?_⟩
  · rw [State.hostAccess_read (State.performs_iff.2 ⟨rfl, ha, hoff, hr⟩), hread]
  · rwa [State.openMask_eq_listedOutputs he hd hx ha] at hexact
  · rwa [State.openMask_illegal hd, BitVec.not_zero, BitVec.and_allOnes, BitVec.and_allOnes] at hexact

/-- Settles O49: the write to CTRL.SRST is a soft reset, which abandons nothing while ENG is Idle. -/
theorem softResetRestoresTheRegisters : Obligations.SoftResetRestoresTheRegisters := by
  intro s v hr hv
  rw [State.hostAccess_softReset hr hv]
  exact ⟨fun r => (State.readReg_answer _ _ r).trans (s.readReg_softReset r), rfl, rfl, rfl,
    State.abandonedMem_idle⟩

/-- Settles O50: abandoning a command touches its output words alone, and those are the words its rule lists. -/
theorem softResetKeepsTheOtherBuffers : Obligations.SoftResetKeepsTheOtherBuffers := by
  intro s v hr hv
  rw [State.hostAccess_softReset hr hv]
  refine ⟨fun i t a hd hx hout => State.byte_abandonedMem hd a fun b hb => ?_, fun e => State.abandonedMem_illegal⟩
  rw [State.outputWords_eq_listedWords hx, mem_wordsAt] at hb
  obtain ⟨k, hk, rfl⟩ := hb
  omega

end Sys2Proof.Proofs
end

section
/-! PROOFS. What every command does at its completion, and its life from the CMD write on (40_command.md R120 to R124,
R127): O4, O5, O9, O10, O11, O12, O15, O17, O18. -/

namespace Sys2Proof.Machine

open Sys2Proof.Spec

/-! ## Completions -/

/-- A completion does not depend on the outputs written before it: after any update that keeps the interrupt flags it
has the effects of `complete` (40_command.md R123). -/
theorem State.complete_completes {s u : State} (h : u.irq = s.irq) (c : Code) (v : Word) :
    Completes s (u.complete c v) c.byte v where
  code := rfl
  done := rfl
  idle := rfl
  irqDone := rfl
  irqErr := by simp [Code.isError, h]
  info := by simp [Code.isError]

theorem State.outputsOf_complete_keepsOperands (s : State) (i : Instr) (c : Code) (v : Word) :
    KeepsOperands s ((s.outputsOf i).complete c v) := by
  obtain ⟨hcmd, hstatus, hirq, -, hdemod, hsync, hburst, hcrc, htea, -, hrst, hin, hresp, hdraws⟩ :=
    s.outputsOf_keeps i
  constructor <;> simp [hcmd, hstatus, hirq, hdemod, hsync, hburst, hcrc, htea, hrst, hin, hresp, hdraws]

/-- What every command's completion has in common: the effects of `complete` with some code, and no operand written. -/
theorem exec_completes {i : Instr} {s t : State} (h : exec i s = .next t) :
    ∃ (c : Code) (v : Word), Completes s t c.byte v ∧ KeepsOperands s t := by
  rcases exec_cases h with ⟨c, v, -, -, rfl⟩ | ⟨-, rfl⟩
  · have hfail := s.complete_failsWith c v
    exact ⟨c, v, hfail.completes, hfail.operands⟩
  · obtain ⟨-, -, hirq, -⟩ := s.outputsOf_keeps i
    exact ⟨.ok, 0#32, State.complete_completes hirq .ok 0#32, s.outputsOf_complete_keepsOperands i .ok 0#32⟩

/-- A command whose completion code is not OK has failed a check, before any output was written. -/
theorem exec_failsWith {i : Instr} {s t : State} (h : exec i s = .next t) (hc : t.status.code ≠ 0x00#8) :
    ∃ info, FailsWith s t t.status.code info := by
  rcases exec_cases h with ⟨c, v, -, -, rfl⟩ | ⟨-, rfl⟩
  · exact ⟨v, s.complete_failsWith c v⟩
  · exact absurd rfl hc

/-- The same completion of two states that agree is the same outcome. -/
theorem State.Agrees.complete {s t : State} (h : s.Agrees t) (c : Code) (v : Word) :
    SameOutcome (s.complete c v) (t.complete c v) where
  code := rfl
  errInfo := rfl
  results :=
    ⟨h.demodOut, h.symCount, h.syncResult, h.burstResult, h.burstTs, h.crcValue, h.crcResult, h.teaNblk, h.lk⟩
  mem := h.mem

/-- A command gives the same outcome in any two states that agree on what it reads and writes. -/
theorem State.Agrees.exec {s t : State} (h : s.Agrees t) (i : Instr) :
    ∃ r r', exec i s = .next r ∧ exec i t = .next r' ∧ SameOutcome r r' := by
  cases hc : s.checkOf i with
  | some e =>
    obtain ⟨code, info⟩ := e
    exact ⟨_, _, exec_of_check hc, exec_of_check ((h.checkOf i).trans hc), h.complete code info⟩
  | none =>
    exact ⟨_, _, exec_of_ok hc, exec_of_ok ((h.checkOf i).trans hc), (h.outputsOf i).complete .ok 0#32⟩

/-! ## The start of a command -/

/-- From Idle only a performed write to CMD starts a command (40_command.md R120). -/
theorem State.hostAccess_starts_only_by_cmdWrite {s : State} {a : Access} (he : s.eng = .idle)
    (h : (s.hostAccess a).eng ≠ .idle) : s.rstN = true ∧ ∃ w, a = .write 4 0x004 w := by
  rcases s.hostAccess_cases a with ⟨r, e | e⟩ | ⟨-, e⟩ | ⟨off, v, rfl, -, hr, -, e⟩ <;> rw [e] at h
  · exact absurd he h
  · exact absurd he h
  · exact absurd he h
  · rcases s.storeWord_cases off v with ⟨rfl, -⟩ | ⟨-, -, e⟩ | ⟨r, -, -, -, e⟩ | ⟨-, e⟩ | e
    · exact ⟨hr, v, rfl⟩
    all_goals rw [State.answer_eng, e] at h
    · exact absurd rfl h
    · obtain ⟨-, -, -, -, -, -, -, -, -, -, heng, -⟩ := s.storeReg_keeps v r
      exact absurd (heng.trans he) h
    · exact absurd he h
    · exact absurd he h

/-- The same of a whole turn of the outside world. -/
theorem State.hostTurn_starts_only_by_cmdWrite {s : State} (he : s.eng = .idle) (h : s.hostTurn.eng ≠ .idle) :
    s.rstN = true ∧ ∃ w rest, s.inputs = .access (.write 4 0x004 w) :: rest := by
  have hwaited (rest : List Input) : (s.waited rest).eng = .idle := Engine.tick_eq_idle.2 he
  rcases s.hostTurn_cases with ⟨-, e⟩ | ⟨x, rest, hin, e⟩ <;> rw [e] at h
  · exact absurd (hwaited []) h
  · cases x with
    | access a =>
      obtain ⟨hr, w, rfl⟩ := State.hostAccess_starts_only_by_cmdWrite (hwaited rest) h
      exact ⟨hr, w, rest, hin⟩
    | idle => exact absurd (hwaited rest) h
    | assertReset => exact absurd rfl h
    | releaseReset => exact absurd (hwaited rest) h

/-! ## Placed commands -/

/-- A command word is its own row of the opcode table. -/
theorem tableWord_toNat (w : Word) : tableWord 32 w.toNat = some w := by
  have hlt := w.isLt
  rw [tableWord, Nat.mod_eq_of_lt hlt, if_pos hlt, BitVec.ofNat_toNat, BitVec.setWidth_eq]

theorem State.withFetchWord_toNat (s : State) (w : Word) :
    s.withFetchWord 32 w.toNat = { s.start w 0 with rstN := true } := by
  rw [State.withFetchWord, State.placeCommand, tableWord_toNat]

end Sys2Proof.Machine

namespace Sys2Proof.Proofs

open Sys2Proof.Machine Sys2Proof.Spec

/-- Settles O11: the code is one of 60_exceptions.md R240. -/
theorem everyCommandCompletes : Obligations.EveryCommandCompletes := by
  intro i s
  obtain ⟨c, v, hcompletes, hoperands⟩ := exec_completes (exec_eq i s)
  exact ⟨_, c.byte, v, exec_eq i s, hcompletes, hoperands, c.byte_le⟩

/-- Settles O12: the step completes a command that failed a check, or the illegal command. -/
theorem failedCommandLeavesEveryOutput : Obligations.FailedCommandLeavesEveryOutput := by
  intro s t hr he hstep hc
  rcases step_cases hstep with ⟨-, -, i, -, hx⟩ | ⟨-, -, -, rfl⟩ | ⟨hturn, -⟩
  · exact exec_failsWith hx hc
  · exact ⟨s.cmd, s.complete_failsWith .badCommand s.cmd⟩
  · simp [he, hr] at hturn

/-- Settles O15: a turn short of a reset changes nothing that a command reads or writes. -/
theorem waitingDoesNotChangeTheResult : Obligations.WaitingDoesNotChangeTheResult :=
  fun i _ _ he hx => (State.waitsTo_hostTurn he hx).agrees.exec i

/-- Settles O17: the command waits in CMD with its operands as at the write; the step that finds it there runs it. -/
theorem commandRunsFromItsWriteToItsResult : Obligations.CommandRunsFromItsWriteToItsResult := by
  intro i s rest he hr hin hx
  obtain ⟨n, u, hsteps, hu⟩ := steps_cmdWrite he hr hin hx
  obtain ⟨r, t, hr', ht, hsame⟩ := hu.agrees.exec i
  have hstep : step u = .next t := by
    rw [step_command (hu.released hr) hu.eng (i := i) (by rw [hu.agrees.cmd]; exact decode_encode i), ht]
  obtain ⟨c, v, hcompletes, hoperands⟩ := exec_completes ht
  have hop : t.status.op = opcode i := calc
    t.status.op = u.status.op := hoperands.op
    _ = (encode i).extractLsb' 0 8 := hu.op
    _ = opcode i := (eq_encode_iff.1 rfl).2
  exact ⟨n + 1, t, r, (steps_add hsteps 1).trans (steps_one_of_step hstep), hr', hsame, hcompletes.idle,
    hcompletes.done, hop⟩

/-- Settles O10: a CMD write starts a command from Idle, nothing else does, and while a command runs it is dropped. -/
theorem commandsStartExactlyAtCmdWritesWhileIdle : Obligations.CommandsStartExactlyAtCmdWritesWhileIdle := by
  refine ⟨fun s t hstep he => ⟨fun h => ?_, ?_⟩, fun s d w he hr => ?_⟩
  · cases (step_host (.inl he)).symm.trans hstep
    exact State.hostTurn_starts_only_by_cmdWrite he h
  · rintro ⟨hr, w, rest, hin⟩
    cases (step_cmdWrite he hr hin).symm.trans hstep
    simp
  · exact State.hostAccess_write_dropped w he hr rfl (by decide) rfl

/-- Settles O4: the turn is the engine's, for the machine at the default transforms and for every other. -/
theorem stepRunsTheDecodedCommand : Obligations.StepRunsTheDecodedCommand :=
  fun s i hr he hd => ⟨step_command hr he hd, fun _ => stepWith_command hr he hd, exec_eq_execWith i s⟩

/-- Settles O5: the placed state is one whose completion is due. -/
theorem placedCommandRunsNext : Obligations.PlacedCommandRunsNext := by
  intro s i
  rw [State.withFetchWord_toNat]
  exact ⟨step_command rfl rfl (decode_encode i), rfl, rfl⟩

/-- Settles O9: the start of a command is an update of CMD, STATUS and ENG alone. -/
theorem cmdWriteStartsTheCommand : Obligations.CmdWriteStartsTheCommand := by
  intro s w rest he hr hin
  have hresults : KeepsResults s (((s.waited rest).startCommand w).answer .accepted) := by constructor <;> rfl
  exact ⟨_, Config.latency s.draws, step_cmdWrite he hr hin, rfl, rfl, rfl, rfl, rfl, rfl, rfl, rfl, hresults,
    rfl, rfl, rfl, rfl, rfl, rfl, rfl, hr⟩

/-- Settles O18: NOP is a completion with OK and nothing else, after which STATUS has DONE and the opcode 0x00 only. -/
theorem nopCompletesOk : Obligations.NopCompletesOk := by
  refine ⟨decode_encode .nop, fun s => ⟨_, rfl, s.complete_failsWith .ok 0#32, fun hop hwbusy => ?_⟩⟩
  have hidle : (s.complete .ok 0#32).busy = false := State.not_busy_iff.2 rfl
  simp only [State.readReg, State.complete_status, hop, hwbusy, hidle]
  rfl

end Sys2Proof.Proofs
end

section
/-! PROOFS. DEMOD, the demodulator (41_demodulator.md R141 to R149): O19 to O23. -/

namespace Sys2Proof.Spec

/-- A chosen phase is no smaller than another one, since no candidate beats it. -/
theorem IsChosenPhase.not_lt {x : List Cplx} {S P Q : Nat} (hP : IsChosenPhase x S P) (hQ : IsChosenPhase x S Q) :
    ¬P < Q := by
  intro hlt
  rcases hQ with ⟨-, h0⟩ | ⟨hQc, -, hleast⟩
  · exact Nat.not_lt_zero P (h0 ▸ hlt)
  · rcases hP with ⟨hnone, -⟩ | ⟨hPc, hbest, -⟩
    · exact hnone Q hQc
    · obtain ⟨q, hq, hnot⟩ := hleast P hlt hPc
      exact hnot (hbest q hq)

theorem IsChosenPhase.unique {x : List Cplx} {S P Q : Nat} (hP : IsChosenPhase x S P) (hQ : IsChosenPhase x S Q) :
    P = Q :=
  Nat.le_antisymm (Nat.le_of_not_lt (hQ.not_lt hP)) (Nat.le_of_not_lt (hP.not_lt hQ))

end Sys2Proof.Spec

namespace Sys2Proof.Machine

open Sys2Proof.Spec

/-! ## The quantizer -/

/-- The quantizer answers the bucket of a product, boundaries and origin included (41_demodulator.md R146). -/
theorem quantize_isBucket (z : Cplx) : IsBucket z.re z.im (quantize z) := by
  refine ⟨fun h => ?_, fun h => ?_, fun h => ?_, fun h => ?_, fun h => ?_⟩ <;> grind only [quantize]

@[simp] theorem quantize_zero : quantize { re := 0, im := 0 } = 0#2 := rfl

@[simp] theorem diffProduct_zero : diffProduct { re := 0, im := 0 } { re := 0, im := 0 } = { re := 0, im := 0 } := rfl

/-! ## The chosen phase -/

theorem energyAtPhase_eq_phaseEnergy (x : List Cplx) (S p : Nat) : energyAtPhase x S p = phaseEnergy x S p := by
  simp only [energyAtPhase, phaseEnergy, phaseSamples, List.map_map, sq]
  exact Multiset.sum_coe _

/-- The phase search answers the phase of 41_demodulator.md R143. -/
theorem bestPhase_isChosenPhase (x : List Cplx) (S : Nat) : IsChosenPhase x S (bestPhase x S) := by
  rcases bestPhase_spec x S with ⟨hnone, h0⟩ | ⟨hlt, hpos, hbest, hleast⟩
  · exact .inl ⟨fun p hp => hp.2.ne' (hnone p hp.1), h0⟩
  · refine .inr ⟨⟨hlt, hpos⟩, fun q hq => ?_, fun p hp hc => ?_⟩
    · rw [notBetter, energyAtPhase_eq_phaseEnergy, energyAtPhase_eq_phaseEnergy]
      exact hbest q hq.1 hq.2
    · obtain ⟨q, hqS, hqpos, hnot⟩ := hleast p hp hc.2
      refine ⟨q, ⟨hqS, hqpos⟩, ?_⟩
      rwa [notBetter, energyAtPhase_eq_phaseEnergy, energyAtPhase_eq_phaseEnergy]

theorem bestPhase_eq_of_isChosenPhase {x : List Cplx} {S P : Nat} (h : IsChosenPhase x S P) : bestPhase x S = P :=
  (bestPhase_isChosenPhase x S).unique h

/-! ## Scaling (41_demodulator.md R149) -/

/-- A sample or a product with both parts multiplied by `c`. -/
def scaled (c : Int) (z : Cplx) : Cplx := { re := c * z.re, im := c * z.im }

theorem at0_map_scaled (c : Int) (x : List Cplx) (k : Nat) : at0 (x.map (scaled c)) k = scaled c (at0 x k) := by
  simp only [at0, List.getD_eq_getElem?_getD, List.getElem?_map]
  cases x[k]? <;> simp [scaled]

theorem energyAtPhase_scaled (c : Int) (x : List Cplx) (S p : Nat) :
    energyAtPhase (x.map (scaled c)) S p = c ^ 2 * energyAtPhase x S p := by
  simp only [energyAtPhase, List.length_map, at0_map_scaled, Finset.mul_sum]
  refine Finset.sum_congr rfl fun k _ => ?_
  simp only [scaled]
  ring

/-- Both sides of the comparison of two average powers are multiplied by `c ^ 2`. -/
theorem notBetter_scaled {c : Int} (hc : 0 < c) (x : List Cplx) (S p q : Nat) :
    notBetter (x.map (scaled c)) S p q ↔ notBetter x S p q := by
  simp only [notBetter, energyAtPhase_scaled, List.length_map, mul_assoc]
  exact mul_le_mul_iff_right₀ (pow_pos hc 2)

theorem isCandidate_scaled (c : Int) (x : List Cplx) (S p : Nat) :
    isCandidate (x.map (scaled c)) S p ↔ isCandidate x S p := by
  simp only [isCandidate, List.length_map]

theorem bestPhase_scaled {c : Int} (hc : 0 < c) (x : List Cplx) (S : Nat) :
    bestPhase (x.map (scaled c)) S = bestPhase x S := by
  have h := bestPhase_isChosenPhase x S
  refine bestPhase_eq_of_isChosenPhase ?_
  simpa only [IsChosenPhase, isCandidate_scaled, notBetter_scaled hc] using h

theorem phaseSamples_scaled (c : Int) (x : List Cplx) (S p : Nat) :
    phaseSamples (x.map (scaled c)) S p = (phaseSamples x S p).map (scaled c) := by
  simp only [phaseSamples, List.length_map, List.map_map]
  exact List.map_congr_left fun k _ => at0_map_scaled c x (p + k * S)

theorem diffProduct_scaled (c : Int) (a b : Cplx) :
    diffProduct (scaled c a) (scaled c b) = scaled (c ^ 2) (diffProduct a b) := by
  simp only [diffProduct, scaled, Cplx.mk.injEq]
  constructor <;> ring

theorem diffProducts_scaled (c : Int) (ss : List Cplx) :
    diffProducts (ss.map (scaled c)) = (diffProducts ss).map (scaled (c ^ 2)) := by
  induction ss with
  | nil => rfl
  | cons a ss ih =>
    cases ss with
    | nil => rfl
    | cons b ss => simpa only [List.map_cons, diffProducts, diffProduct_scaled, List.cons.injEq, true_and] using ih

/-- The quantizer looks only at the signs of the parts, which a positive factor keeps. -/
theorem quantize_scaled {c : Int} (hc : 0 < c) (z : Cplx) : quantize (scaled c z) = quantize z := by
  have hpos (a : Int) : 0 < c * a ↔ 0 < a := mul_pos_iff_of_pos_left hc
  have hnonneg (a : Int) : 0 ≤ c * a ↔ 0 ≤ a := mul_nonneg_iff_of_pos_left hc
  have hneg (a : Int) : c * a < 0 ↔ a < 0 := by rw [← not_le, hnonneg, not_le]
  have hnonpos (a : Int) : c * a ≤ 0 ↔ a ≤ 0 := by rw [← not_lt, hpos, not_lt]
  simp only [quantize, scaled, mul_eq_zero, hc.ne', false_or, hpos, hnonneg, hneg, hnonpos]

theorem symbolsOf_scaled {c : Int} (hc : 0 < c) (ss : List Cplx) : symbolsOf (ss.map (scaled c)) = symbolsOf ss := by
  rw [symbolsOf, diffProducts_scaled, List.map_map, symbolsOf]
  exact List.map_congr_left fun z _ => quantize_scaled (pow_pos hc 2) z

/-! ## Silence (41_demodulator.md R148) -/

/-- Where no phase has energy, no candidate beats phase 0. -/
theorem bestPhase_of_no_energy {x : List Cplx} {S : Nat} (hx : x ≠ []) (hS : S ≠ 0)
    (h : ∀ p, energyAtPhase x S p = 0) : bestPhase x S = 0 := by
  have hcount : 0 < samplesAtPhase x.length S 0 := (phaseCount_pos_iff _ _ _).2 (List.length_pos_iff.2 hx)
  refine bestPhase_eq_of_isChosenPhase
    (.inr ⟨⟨Nat.pos_of_ne_zero hS, hcount⟩, fun q _ => ?_, fun p hp => absurd hp (Nat.not_lt_zero p)⟩)
  simp [notBetter, h]

theorem energyAtPhase_of_silent {x : List Cplx} (h : ∀ k, at0 x k = { re := 0, im := 0 }) (S p : Nat) :
    energyAtPhase x S p = 0 := by
  simp [energyAtPhase, h]

/-! ## What DEMOD does -/

theorem State.demodX_eq_demodSeq (s : State) : demodX s = s.demodSeq := rfl

theorem exec_demod_of_legal {s : State} (hS : s.demod.sps.toNat ≠ 0) (hN : s.demod.nsamp.toNat ≤ 4096) :
    exec .demod s = .next (s.demodOutputs.complete .ok 0#32) :=
  exec_of_ok (s.demodCheck_eq_none.2 ⟨hS, hN⟩)

/-- M of 41_demodulator.md R147. -/
theorem State.length_demodSymbols (s : State) :
    s.demodSymbols.length = samplesAtPhase (demodX s).length s.demod.sps.toNat s.demodPhase - 1 := by
  rw [State.demodSymbols, length_symbolsOf, length_phaseSamples]
  rfl

theorem State.getD_demodSymbols (s : State) {k : Nat} (hk : k < s.demodSymbols.length) :
    s.demodSymbols.getD k 0#2 =
      quantize (diffProduct (at0 (demodX s) (s.demodPhase + (k + 1) * s.demod.sps.toNat))
        (at0 (demodX s) (s.demodPhase + k * s.demod.sps.toNat))) := by
  simp only [State.demodSymbols, length_symbolsOf] at hk
  have hlen := length_phaseSamples s.demodSeq s.demod.sps.toNat s.demodPhase
  rw [State.demodSymbols, getD_symbolsOf _ _ { re := 0, im := 0 } (by omega), getD_phaseSamples _ _ _ _ _ (by omega),
    getD_phaseSamples _ _ _ _ _ (by omega)]
  rfl

theorem State.toNat_demodOutputs_phase {s : State} (hS : s.demod.sps.toNat ≠ 0) :
    s.demodOutputs.demodOut.phase.toNat = s.demodPhase := by
  have hlt : s.demodPhase < s.demod.sps.toNat := bestPhase_lt _ _ hS
  have hsps := s.demod.sps.isLt
  rw [State.demodOutputs_demodOut, BitVec.toNat_ofNat, Nat.mod_eq_of_lt (by omega)]

theorem State.toNat_demodOutputs_nfe {s : State} (hN : s.demod.nsamp.toNat ≤ 4096) :
    s.demodOutputs.demodOut.nfe.toNat = (demodX s).length := by
  have hle := s.length_demodSeq_le
  rw [State.demodOutputs_demodOut, State.demodX_eq_demodSeq, BitVec.toNat_ofNat, Nat.mod_eq_of_lt (by omega)]

theorem State.toNat_demodOutputs_symCount {s : State} (hN : s.demod.nsamp.toNat ≤ 4096) :
    s.demodOutputs.symCount.toNat = s.demodSymbols.length := by
  have hle := s.length_demodSymbols_le
  rw [State.demodOutputs_symCount, BitVec.toNat_ofNat, Nat.mod_eq_of_lt (by omega)]

theorem State.sym_demodOutputs (s : State) (k : Nat) :
    s.demodOutputs.mem.sym k = if k < s.demodSymbols.length then s.demodSymbols.getD k 0#2 else s.mem.sym k := by
  rw [State.demodOutputs_mem, Memory.sym_setSyms]
  simp

theorem State.byte_demodOutputs (s : State) {a : Nat}
    (h : a < symbufBase ∨ symbufBase + 4 * ((s.demodSymbols.length + 15) / 16) ≤ a) :
    s.demodOutputs.mem.byte a = s.mem.byte a := by
  rw [State.demodOutputs_mem, Memory.byte_setSyms_outside]
  simpa using h

theorem State.demodSymbols_of_nsamp_le_one {s : State} (h : s.demod.nsamp.toNat ≤ 1) : s.demodSymbols = [] := by
  have hle := s.length_demodSymbols_le
  exact List.eq_nil_of_length_eq_zero (by omega)

/-- A silent SAMPLE buffer, with the front end bypassed, is a silent sequence. -/
theorem State.at0_demodX_of_silent {s : State} (hfe : s.demod.feEn = false)
    (h : ∀ k, k < s.demod.nsamp.toNat → s.mem.sample k = { re := 0, im := 0 }) (k : Nat) :
    at0 (demodX s) k = { re := 0, im := 0 } := by
  simp only [demodX, hfe, Bool.false_eq_true, if_false, at0, List.getD_eq_getElem?_getD, List.getElem?_map]
  by_cases hk : k < s.demod.nsamp.toNat
  · simpa [List.getElem?_range hk] using h k hk
  · simp [Nat.le_of_not_lt hk]

theorem State.length_demodX_of_bypass {s : State} (hfe : s.demod.feEn = false) :
    (demodX s).length = s.demod.nsamp.toNat := by
  simp [demodX, hfe]

theorem State.demodPhase_of_silent {s : State} (hS : s.demod.sps.toNat ≠ 0) (hN : 0 < s.demod.nsamp.toNat)
    (hfe : s.demod.feEn = false) (h : ∀ k, at0 (demodX s) k = { re := 0, im := 0 }) : s.demodPhase = 0 := by
  have hx : demodX s ≠ [] := List.ne_nil_of_length_pos (by rwa [State.length_demodX_of_bypass hfe])
  exact bestPhase_of_no_energy hx hS (energyAtPhase_of_silent h _)

end Sys2Proof.Machine

namespace Sys2Proof.Proofs

open Sys2Proof.Machine Sys2Proof.Spec

/-- Settles O20: the chosen phase and the quantized products of the samples at it are the outputs of the completion. -/
theorem demodWritesTheSymbolsOfTheBestPhase : Obligations.DemodWritesTheSymbolsOfTheBestPhase := by
  intro s hS hN
  have hcount : (s.demodOutputs.complete .ok 0#32).symCount.toNat = s.demodSymbols.length :=
    State.toNat_demodOutputs_symCount hN
  have hlen := s.length_demodSymbols_le
  refine ⟨s.demodOutputs.complete .ok 0#32, s.demodPhase, exec_demod_of_legal hS hN,
    State.complete_completes s.demodOutputs_irq .ok 0#32, s.outputsOf_complete_keepsOperands .demod .ok 0#32,
    bestPhase_isChosenPhase _ _, State.toNat_demodOutputs_phase hS, State.toNat_demodOutputs_nfe hN,
    hcount.trans s.length_demodSymbols, by omega, fun k hk => ?symbols, fun k hk => ?others, fun a ha => ?bytes, ?_⟩
  case symbols =>
    rw [hcount] at hk
    rw [State.complete_mem, State.sym_demodOutputs, if_pos hk, State.getD_demodSymbols s hk]
    exact quantize_isBucket (diffProduct _ _)
  case others =>
    rw [State.complete_mem, State.sym_demodOutputs, if_neg (by omega)]
  case bytes =>
    rw [hcount] at ha
    exact s.byte_demodOutputs ha
  simp

/-- Settles O21: at most one sample stands at any phase, so no product is formed. -/
theorem demodOfAtMostOneSampleIsEmpty : Obligations.DemodOfAtMostOneSampleIsEmpty := by
  intro s hS hN
  have hnone := State.demodSymbols_of_nsamp_le_one hN
  refine ⟨_, exec_demod_of_legal hS (by omega), rfl, ?_, ?_⟩
  · rw [State.complete_symCount, State.demodOutputs_symCount, hnone]
    rfl
  · rw [State.complete_mem, State.demodOutputs_mem, hnone]
    rfl

/-- Settles O22: phase 0 is chosen as no phase has energy, and every product is the zero product. -/
theorem demodOfSilenceIsAllZeroSymbols : Obligations.DemodOfSilenceIsAllZeroSymbols := by
  intro s hS hpos hN hfe hsamples
  have hsilent := State.at0_demodX_of_silent hfe hsamples
  have hphase := State.demodPhase_of_silent hS hpos hfe hsilent
  have hcount : (s.demodOutputs.complete .ok 0#32).symCount.toNat = s.demodSymbols.length :=
    State.toNat_demodOutputs_symCount hN
  refine ⟨_, exec_demod_of_legal hS hN, rfl, ?_, ?_, fun k hk => ?_⟩
  · rw [State.complete_demodOut, State.demodOutputs_demodOut, hphase]
  · rw [hcount, State.length_demodSymbols, State.length_demodX_of_bypass hfe, hphase, samplesAtPhase, if_pos hpos,
      show s.demod.nsamp.toNat + s.demod.sps.toNat - 1 = s.demod.nsamp.toNat - 1 - 0 + s.demod.sps.toNat by omega,
      Nat.add_div_right _ (Nat.pos_of_ne_zero hS)]
  · rw [hcount] at hk
    rw [State.complete_mem, State.sym_demodOutputs, if_pos hk, State.getD_demodSymbols s hk, hsilent, hsilent,
      diffProduct_zero, quantize_zero]

/-- Settles O23: scaling multiplies every average power and every product by the square of the factor. -/
theorem demodIgnoresPositiveScaling : Obligations.DemodIgnoresPositiveScaling := by
  intro x S c hc
  refine ⟨bestPhase_scaled hc x S, ?_⟩
  calc symbolsOf (phaseSamples (x.map (scaled c)) S (bestPhase x S))
    _ = symbolsOf ((phaseSamples x S (bestPhase x S)).map (scaled c)) := by rw [phaseSamples_scaled]
    _ = symbolsOf (phaseSamples x S (bestPhase x S)) := symbolsOf_scaled hc _

/-- Settles O19: the first check that fails completes the command with CONFIG. -/
theorem demodRefusesBadConfiguration : Obligations.DemodRefusesBadConfiguration := by
  intro s
  refine ⟨fun hS => ?_, fun hS hN => ?_⟩
  · have hcheck : s.demodCheck = some (.config, 0x020#32) := if_pos hS
    exact ⟨_, exec_of_check hcheck, s.complete_failsWith .config 0x020#32⟩
  · have hcheck : s.demodCheck = some (.config, 0x024#32) := (if_neg hS).trans (if_pos hN)
    exact ⟨_, exec_of_check hcheck, s.complete_failsWith .config 0x024#32⟩

end Sys2Proof.Proofs
end

section
/-! PROOFS. SYNC, the frame synchronizer (42_frame_sync.md R161 to R169): O24 to O26. -/

namespace Sys2Proof.Spec

open Sys2Proof.Machine

/-! ## Counts of agreeing positions -/

theorem agreeing_succ (n : Nat) (f g : Nat → Bool) :
    agreeing (n + 1) f g = (if f 0 = g 0 then 1 else 0) + agreeing n (fun t => f (t + 1)) fun t => g (t + 1) := by
  simp only [agreeing, Finset.card_filter, Finset.sum_range_succ']
  exact Nat.add_comm _ _

theorem agreeing_congr {n : Nat} {f f' g g' : Nat → Bool} (hf : ∀ t, t < n → f t = f' t)
    (hg : ∀ t, t < n → g t = g' t) : agreeing n f g = agreeing n f' g' := by
  refine congrArg Finset.card (Finset.filter_congr fun t ht => ?_)
  rw [hf t (Finset.mem_range.1 ht), hg t (Finset.mem_range.1 ht)]

/-! ## Passes against the best count (42_frame_sync.md R169) -/

/-- A threshold pass records nothing exactly when the best count misses its threshold. -/
theorem IsBest.passEmpty_iff {s : State} {B : Nat} (h : IsBest s B) (th : BitVec 16) :
    passEmpty s th ↔ 1000 * B < 22 * th.toNat := by
  obtain ⟨hle, i, hi, rfl⟩ := h
  refine ⟨fun hnone => Nat.lt_of_not_le (hnone i hi), fun hlt j hj hq => ?_⟩
  have hj' := hle j hj
  rw [qualifies] at hq
  omega

/-- A pass with a list is not one that records nothing. -/
theorem IsPassList.not_passEmpty {s : State} {th : BitVec 16} {l : List Nat} (h : IsPassList s th l) :
    ¬passEmpty s th := by
  obtain ⟨hne, -, hmem, -⟩ := h
  obtain ⟨i, hi⟩ := List.exists_mem_of_ne_nil l hne
  obtain ⟨hlt, hq⟩ := hmem i hi
  exact fun hnone => hnone i hlt hq

/-- Which pass the search ends with, by the thresholds that the best count meets (42_frame_sync.md R166, R167). -/
theorem IsFound.pass_cases {s : State} {B pass : Nat} {l : List Nat} (h : IsFound s B pass l) (hB : IsBest s B) :
    (pass = 0 ∧ 22 * s.sync.thr0.toNat ≤ 1000 * B) ∨
    (pass = 1 ∧ 1000 * B < 22 * s.sync.thr0.toNat ∧ 22 * s.sync.thr1.toNat ≤ 1000 * B) ∨
    (pass = 2 ∧ 1000 * B < 22 * s.sync.thr0.toNat ∧ 1000 * B < 22 * s.sync.thr1.toNat ∧
      22 * s.sync.thr2.toNat ≤ 1000 * B) ∨
    (pass = 3 ∧ 1000 * B < 22 * s.sync.thr0.toNat ∧ 1000 * B < 22 * s.sync.thr1.toNat ∧
      1000 * B < 22 * s.sync.thr2.toNat ∧ 22 * s.sync.floor.toNat ≤ 1000 * B) ∨
    (pass = 7 ∧ 1000 * B < 22 * s.sync.thr0.toNat ∧ 1000 * B < 22 * s.sync.thr1.toNat ∧
      1000 * B < 22 * s.sync.thr2.toNat ∧ 1000 * B < 22 * s.sync.floor.toNat ∧ l = []) := by
  have hmeets {th : BitVec 16} (hl : IsPassList s th l) : 22 * th.toNat ≤ 1000 * B :=
    Nat.le_of_not_lt (mt (hB.passEmpty_iff th).2 hl.not_passEmpty)
  simp only [IsFound, hB.passEmpty_iff] at h
  rcases h with ⟨hp, hl⟩ | ⟨hp, h0, hl⟩ | ⟨hp, h0, h1, hl⟩ | ⟨hp, h0, h1, h2, hf, -⟩ | ⟨hp, h0, h1, h2, hf, hnil⟩
  · exact .inl ⟨hp, hmeets hl⟩
  · exact .inr (.inl ⟨hp, h0, hmeets hl⟩)
  · exact .inr (.inr (.inl ⟨hp, h0, h1, hmeets hl⟩))
  · exact .inr (.inr (.inr (.inl ⟨hp, h0, h1, h2, hf⟩)))
  · exact .inr (.inr (.inr (.inr ⟨hp, h0, h1, h2, hf, hnil⟩)))

end Sys2Proof.Spec

namespace Sys2Proof.Machine

open Sys2Proof.Spec

/-! ## The match counts (42_frame_sync.md R163) -/

theorem matchCount_eq_agreeing (s t : List Bool) (h : s.length = t.length) :
    matchCount s t = agreeing t.length (fun k => s.getD k false) fun k => t.getD k false := by
  induction s generalizing t with
  | nil => cases List.length_eq_zero_iff.1 h.symm; rfl
  | cons x s ih =>
    cases t with
    | nil => simp at h
    | cons y t => simp [matchCount, agreeing_succ, ih t (Nat.succ.inj h)]

theorem getD_patternBits (ts : BitVec 22) {t : Nat} (ht : t < 22) :
    (patternBits ts).getD t false = patternBit ts t := by
  simp [patternBits, patternBit, List.getD_eq_getElem?_getD, ht]

theorem matchCount_patternBits (ts : BitVec 22) {w : List Bool} {f : Nat → Bool} (hlen : w.length = 22)
    (hw : ∀ t, t < 22 → w.getD t false = f t) : matchCount w (patternBits ts) = agreeing 22 f (patternBit ts) := by
  rw [matchCount_eq_agreeing w _ (by rw [hlen, length_patternBits]), length_patternBits]
  exact agreeing_congr hw fun t ht => getD_patternBits ts ht

/-- The count of a window of 22 symbol bits from bit j on, for SYNC and for the midpoint of a burst. -/
theorem State.windowCount_eq_matchAt (s : State) {w : List Bool} {j : Nat} (hlen : w.length = 22)
    (hw : ∀ t, t < 22 → w.getD t false = s.mem.sbit (j + t)) :
    windowCount (patternBits s.sync.ts1) (patternBits s.sync.ts2) w = matchAt s j := by
  rw [windowCount, matchAt, matchCount_patternBits _ hlen hw, matchCount_patternBits _ hlen hw]

/-- `L` of 42_frame_sync.md R162 as one truncated difference. -/
theorem State.syncLength_eq (s : State) : s.syncLength = 2 * s.symCount.toNat - s.sync.start.toNat := by
  rw [State.syncLength]
  split <;> omega

theorem State.length_syncCounts (s : State) : s.syncCounts.length = offsetsOf s := by
  rw [State.syncCounts, length_offsetCounts, State.syncBits, Memory.length_sbits, State.syncLength_eq, offsetsOf]

theorem State.getD_syncCounts (s : State) {i : Nat} (hi : i < offsetsOf s) : s.syncCounts.getD i 0 = countAt s i := by
  have hlen : s.syncBits.length = s.syncLength := Memory.length_sbits ..
  have hL : i + 22 ≤ s.syncLength := by rw [State.syncLength_eq]; rw [offsetsOf] at hi; omega
  have hwindow : windowCount (patternBits s.sync.ts1) (patternBits s.sync.ts2) (slice s.syncBits i (i + 22)) =
      countAt s i := by
    refine s.windowCount_eq_matchAt (by rw [length_slice, hlen]; omega) fun t ht => ?_
    rw [getD_slice _ _ _ _ (by omega), State.syncBits, Memory.getD_sbits _ _ _ _ (by omega), Nat.add_assoc]
  rw [State.syncCounts, offsetCounts, List.getD_eq_getElem?_getD, List.getElem?_map,
    List.getElem?_range (by omega), Option.map_some, Option.getD_some, hwindow]

theorem State.countAt_le (s : State) {i : Nat} (hi : i < offsetsOf s) : countAt s i ≤ 22 := by
  have hlt : i < s.syncCounts.length := s.length_syncCounts ▸ hi
  rw [← s.getD_syncCounts hi, List.getD_eq_getElem _ _ hlt]
  exact s.syncCounts_le _ (List.getElem_mem hlt)

/-- B of 42_frame_sync.md R164. -/
theorem State.bestCount_isBest {s : State} (hne : s.syncCounts ≠ []) : IsBest s (bestCount s.syncCounts) := by
  have hget {i : Nat} (hi : i < offsetsOf s) (hlt : i < s.syncCounts.length) : countAt s i = s.syncCounts[i] := by
    rw [← s.getD_syncCounts hi, List.getD_eq_getElem _ _ hlt]
  refine ⟨fun i hi => ?_, ?_⟩
  · have hlt : i < s.syncCounts.length := s.length_syncCounts ▸ hi
    exact hget hi hlt ▸ mem_le_bestCount (List.getElem_mem hlt)
  · obtain ⟨i, hlt, hi⟩ := List.getElem_of_mem (bestCount_mem hne)
    have hoff : i < offsetsOf s := s.length_syncCounts ▸ hlt
    exact ⟨i, hoff, (hget hoff hlt).trans hi⟩

/-! ## The passes (42_frame_sync.md R165 to R167) -/

/-- A scan of the match counts with a predicate on counts records the list of the predicate on offsets. -/
theorem State.scan_isScan {s : State} {Q : Nat → Bool} {P : Nat → Prop} (hskip : s.sync.skip.toNat ≠ 0)
    (hQ : ∀ i, Q (countAt s i) = true ↔ P i) :
    IsScan P (offsetsOf s) s.sync.skip.toNat (scan Q s.syncCounts s.sync.skip.toNat) := by
  obtain ⟨hrise, hmem, hcover⟩ := scan_spec Q s.syncCounts _ hskip
  rw [State.length_syncCounts] at hmem hcover
  refine ⟨hrise, fun i hi => ?_, fun i hi hP => ?_⟩
  · obtain ⟨hlt, hq⟩ := hmem i hi
    exact ⟨hlt, (hQ i).1 (s.getD_syncCounts hlt ▸ hq)⟩
  · exact hcover i hi (by rw [s.getD_syncCounts hi]; exact (hQ i).2 hP)

/-- The predicate of a threshold pass on counts is the one on offsets. -/
theorem meets_countAt_iff (s : State) (th : BitVec 16) (i : Nat) :
    meets th.toNat (countAt s i) = true ↔ qualifies s th i := by
  rw [meets, decide_eq_true_iff, qualifies]

theorem State.scan_meets_isPassList {s : State} (hskip : s.sync.skip.toNat ≠ 0) {th : BitVec 16}
    (hne : scan (meets th.toNat) s.syncCounts s.sync.skip.toNat ≠ []) :
    IsPassList s th (scan (meets th.toNat) s.syncCounts s.sync.skip.toNat) :=
  ⟨hne, State.scan_isScan hskip (meets_countAt_iff s th)⟩

theorem State.passEmpty_of_scan_eq_nil {s : State} (hskip : s.sync.skip.toNat ≠ 0) {th : BitVec 16}
    (hnil : scan (meets th.toNat) s.syncCounts s.sync.skip.toNat = []) : passEmpty s th := by
  obtain ⟨-, -, hcover⟩ := State.scan_isScan hskip (meets_countAt_iff s th)
  intro i hi hq
  obtain ⟨j, hj, -⟩ := hcover i hi hq
  rw [hnil] at hj
  exact List.not_mem_nil hj

/-- What a SYNC whose checks pass finds is what 42_frame_sync.md R166 and R167 say. -/
theorem State.syncFound_isFound {s : State} (hc : s.syncCheck = none) :
    IsFound s (bestCount s.syncCounts) s.syncFound.pass s.syncFound.list := by
  obtain ⟨-, hskip, -⟩ := s.syncCheck_eq_none.1 hc
  have hempty {th : BitVec 16} := State.passEmpty_of_scan_eq_nil hskip (th := th)
  have hlist {th : BitVec 16} := State.scan_meets_isPassList hskip (th := th)
  rw [State.syncFound]
  rcases syncSearch_cases s.sync s.syncCounts with ⟨h0, e⟩ | ⟨h0, h1, e⟩ | ⟨h0, h1, h2, e⟩ | ⟨h0, h1, h2, hf, e⟩ |
    ⟨h0, h1, h2, hf, e⟩ <;> rw [e]
  · exact .inl ⟨rfl, hlist h0⟩
  · exact .inr (.inl ⟨rfl, hempty h0, hlist h1⟩)
  · exact .inr (.inr (.inl ⟨rfl, hempty h0, hempty h1, hlist h2⟩))
  · exact .inr (.inr (.inr (.inl ⟨rfl, hempty h0, hempty h1, hempty h2, hf,
      adaptive_ne_nil _ _ (State.syncCounts_ne_nil hc) hskip hf,
      State.scan_isScan hskip fun i => by rw [decide_eq_true_iff, adaptiveThreshold]⟩)))
  · exact .inr (.inr (.inr (.inr ⟨rfl, hempty h0, hempty h1, hempty h2, hf, rfl⟩)))

/-- Every position that a pass records is an offset of the scanned bits. -/
theorem State.mem_syncFound_lt {s : State} (hc : s.syncCheck = none) {i : Nat} (hi : i ∈ s.syncFound.list) :
    i < offsetsOf s := by
  rcases State.syncFound_isFound hc with ⟨-, -, -, hmem, -⟩ | ⟨-, -, -, -, hmem, -⟩ | ⟨-, -, -, -, -, hmem, -⟩ |
    ⟨-, -, -, -, -, -, -, hmem, -⟩ | ⟨-, -, -, -, -, hnil⟩
  case inr.inr.inr.inr => rw [hnil] at hi; exact absurd hi List.not_mem_nil
  all_goals exact (hmem i hi).1

/-! ## The outputs (42_frame_sync.md R168) -/

theorem State.length_syncEntries (s : State) : s.syncEntries.length = min s.syncFound.list.length 64 := by
  rw [State.syncEntries, List.length_map, List.length_take, Nat.min_comm]

theorem State.toNat_syncOutputs_best (s : State) :
    s.syncOutputs.syncResult.best.toNat = bestCount s.syncCounts := by
  have hle := s.bestCount_le
  rw [State.syncOutputs_syncResult, BitVec.toNat_ofNat, Nat.mod_eq_of_lt (by omega)]

theorem State.toNat_syncOutputs_count (s : State) :
    s.syncOutputs.syncResult.count.toNat = min s.syncFound.list.length 64 := by
  rw [State.syncOutputs_syncResult, BitVec.toNat_ofNat, Nat.mod_eq_of_lt (by rw [Config.syncCap]; omega)]

theorem State.toNat_syncOutputs_pass {s : State} (hc : s.syncCheck = none) :
    s.syncOutputs.syncResult.pass.toNat = s.syncFound.pass := by
  have hpass := State.syncFound_pass hc
  rw [State.syncOutputs_syncResult, BitVec.toNat_ofNat, Nat.mod_eq_of_lt (by omega)]

theorem State.syncOut_syncOutputs (s : State) {e : Nat} (he : e < min s.syncFound.list.length 64) :
    s.syncOutputs.mem.syncOut e =
      syncEntry (s.sync.start.toNat + s.syncFound.list.getD e 0) (s.syncCounts.getD (s.syncFound.list.getD e 0) 0) := by
  obtain ⟨hlt, h64⟩ := Nat.lt_min.1 he
  rw [Memory.syncOut, State.syncOutputs_mem, Memory.word_setWords _ _ _ _ (by rwa [State.length_syncEntries])]
  simp [State.syncEntries, List.getD_eq_getElem?_getD, h64, hlt]

theorem State.byte_syncOutputs (s : State) {a : Nat}
    (h : a < syncOutBase ∨ syncOutBase + 4 * min s.syncFound.list.length 64 ≤ a) :
    s.syncOutputs.mem.byte a = s.mem.byte a := by
  rw [State.syncOutputs_mem, Memory.byte_setWords_outside _ _ _ _ (by rwa [State.length_syncEntries])]

end Sys2Proof.Machine

namespace Sys2Proof.Proofs

open Sys2Proof.Machine Sys2Proof.Spec

/-- Settles O25: the best count, the pass and the list of the search are the outputs of the completion. -/
theorem syncRecordsThePositionsOfTheFirstPassThatFindsAny :
    Obligations.SyncRecordsThePositionsOfTheFirstPassThatFindsAny := by
  intro s hcount hskip hlen
  have hc : s.syncCheck = none := s.syncCheck_eq_none.2 ⟨hcount, hskip, hlen⟩
  refine ⟨s.syncOutputs.complete .ok 0#32, bestCount s.syncCounts, s.syncFound.pass, s.syncFound.list,
    exec_of_ok (i := .sync) hc, State.complete_completes s.syncOutputs_irq .ok 0#32,
    s.outputsOf_complete_keepsOperands .sync .ok 0#32, State.bestCount_isBest (State.syncCounts_ne_nil hc),
    State.syncFound_isFound hc, s.toNat_syncOutputs_best, State.toNat_syncOutputs_pass hc, s.toNat_syncOutputs_count,
    by simp [Config.syncCap], fun e he => ?entries, fun a ha => s.byte_syncOutputs ha, ?_⟩
  case entries =>
    have hlt : e < s.syncFound.list.length := (Nat.lt_min.1 he).1
    have hoff : s.syncFound.list.getD e 0 < offsetsOf s := by
      rw [List.getD_eq_getElem _ _ hlt]
      exact State.mem_syncFound_lt hc (List.getElem_mem hlt)
    have hle := s.countAt_le hoff
    obtain ⟨hoffset, hgap, hmatch, hhigh⟩ :=
      syncEntry_fields (s.sync.start.toNat + s.syncFound.list.getD e 0) (countAt s (s.syncFound.list.getD e 0))
    rw [State.complete_mem, s.syncOut_syncOutputs he, s.getD_syncCounts hoff]
    refine ⟨hoffset, hgap, ?_, hhigh, ?_⟩
    · rw [hmatch, BitVec.toNat_ofNat, Nat.mod_eq_of_lt (by omega)]
    · rw [offsetsOf] at hoff
      omega
  simp

/-- Settles O26: 20, 19, 18 and 17 are the least counts of 22 that meet 900, 850, 800 and 750 thousandths. -/
theorem syncPassFollowsTheBestCountAtResetThresholds : Obligations.SyncPassFollowsTheBestCountAtResetThresholds := by
  intro s hcount hskip hlen h0 h1 h2 hfloor _
  obtain ⟨t, B, pass, l, hexec, hcompletes, -, hB, hfound, hbest, hpass, hlist, -⟩ :=
    syncRecordsThePositionsOfTheFirstPassThatFindsAny s hcount hskip hlen
  have hcases := hfound.pass_cases hB
  have e0 : s.sync.thr0.toNat = 900 := congrArg BitVec.toNat h0
  have e1 : s.sync.thr1.toNat = 850 := congrArg BitVec.toNat h1
  have e2 : s.sync.thr2.toNat = 800 := congrArg BitVec.toNat h2
  have ef : s.sync.floor.toNat = 750 := congrArg BitVec.toNat hfloor
  rw [e0, e1, e2, ef] at hcases
  have hvalue {n : Nat} (h : pass = n) : t.syncResult.pass = BitVec.ofNat 3 n := by
    rw [← h, ← hpass, BitVec.ofNat_toNat, BitVec.setWidth_eq]
  have hnone (h : B ≤ 16) : pass = 7 ∧ l = [] := by
    rcases hcases with ⟨-, _⟩ | ⟨-, -, _⟩ | ⟨-, -, -, _⟩ | ⟨-, -, -, -, _⟩ | ⟨hp, -, -, -, -, hl⟩
    case inr.inr.inr.inr => exact ⟨hp, hl⟩
    all_goals omega
  refine ⟨t, hexec, hcompletes.code, ?_⟩
  rw [hbest]
  refine ⟨fun _ => hvalue (by omega), fun _ => hvalue (by omega), fun _ => hvalue (by omega),
    fun _ => hvalue (by omega), fun h => ?_⟩
  obtain ⟨hp, rfl⟩ := hnone h
  exact ⟨hvalue hp, BitVec.eq_of_toNat_eq hlist⟩

/-- Settles O24: the first check that fails completes the command with its code. -/
theorem syncRefusesBadConfigurationOrShortInput : Obligations.SyncRefusesBadConfigurationOrShortInput := by
  intro s
  refine ⟨fun hcount => ?_, fun hcount hskip => ?_, fun hcount hskip hlen => ?_⟩
  · have hcheck : s.syncCheck = some (.config, 0x030#32) := if_pos hcount
    exact ⟨_, exec_of_check hcheck, s.complete_failsWith .config 0x030#32⟩
  · have hcheck : s.syncCheck = some (.config, 0x050#32) := (if_neg (Nat.not_lt.2 hcount)).trans (if_pos hskip)
    exact ⟨_, exec_of_check hcheck, s.complete_failsWith .config 0x050#32⟩
  · have hshort : s.syncLength < 22 := by rw [State.syncLength_eq]; omega
    have hcheck : s.syncCheck = some (.noResult, 0#32) :=
      (if_neg (Nat.not_lt.2 hcount)).trans ((if_neg hskip).trans (if_pos hshort))
    exact ⟨_, exec_of_check hcheck, s.complete_failsWith .noResult 0#32⟩

end Sys2Proof.Proofs
end

section
/-! PROOFS. BURST and the CRC commands (43_burst_crc.md R180 to R189): O27 to O32. -/

namespace Sys2Proof.Machine

open Sys2Proof.Spec

/-! ## Bits and their values -/

theorem bitsNat_succ (n : Nat) (f : Nat → Bool) : bitsNat (n + 1) f = 2 * bitsNat n f + (f n).toNat := by
  have hshift (t : Nat) (ht : t ∈ Finset.range n) :
      (f t).toNat * 2 ^ (n + 1 - 1 - t) = 2 * ((f t).toNat * 2 ^ (n - 1 - t)) := by
    have hlt := Finset.mem_range.1 ht
    rw [show n + 1 - 1 - t = n - 1 - t + 1 by omega, pow_succ]
    ring
  rw [bitsNat, Finset.sum_range_succ, Finset.sum_congr rfl hshift, ← Finset.mul_sum, ← bitsNat]
  simp

theorem bitsVal_map_range (n : Nat) (f : Nat → Bool) : bitsVal ((List.range n).map f) = bitsNat n f := by
  induction n with
  | zero => simp [bitsVal, bitsNat]
  | succ n ih => rw [List.range_succ, List.map_append, List.map_singleton, bitsVal_append_one, ih, bitsNat_succ]

theorem popcount16_eq_ones16 (v : BitVec 16) : popcount16 v = ones16 v :=
  calc popcount16 v
    _ = ((List.range 16).filter fun i => decide (v.getLsbD i = true)).length := by
      simp only [popcount16, List.countP_eq_length_filter, Bool.decide_eq_true]
    _ = ones16 v := rfl

theorem slice_map_range (f : Nat → Bool) {a b n : Nat} (hb : b ≤ n) :
    slice ((List.range n).map f) a b = (List.range (b - a)).map fun t => f (a + t) := by
  apply List.ext_getElem
  · rw [length_slice, List.length_map, List.length_map, List.length_range, List.length_range]
    omega
  · simp [slice]

/-- The two parts of a sequence, as the tolerant check splits it (43_burst_crc.md R181). -/
theorem slice_append (p c : List Bool) :
    slice (p ++ c) 0 p.length = p ∧ slice (p ++ c) p.length (p ++ c).length = c := by
  simp [slice]

/-! ## The CRC (43_burst_crc.md R180) -/

theorem crc16_append_one (p : List Bool) (b : Bool) : crc16 (p ++ [b]) = crcStep (crc16 p) b := by
  simp [crc16, List.foldl_append]

/-- The bit shifted out of a 16-bit register is the one that counts 32768. -/
theorem getLsbD_fifteen (r : BitVec 16) : r.getLsbD 15 = decide (32768 ≤ r.toNat) :=
  r.msb_eq_getLsbD_last.symm.trans r.msb_eq_decide

theorem toNat_crcStep (r : BitVec 16) (b : Bool) :
    (crcStep r b).toNat =
      (2 * r.toNat % 65536) ^^^ (if (decide (32768 ≤ r.toNat) ^^ b) = true then 0x1021 else 0) := by
  have hshift : (r <<< 1).toNat = 2 * r.toNat % 65536 := by
    rw [BitVec.toNat_shiftLeft, Nat.shiftLeft_eq, Nat.pow_one, Nat.mul_comm]
  rw [crcStep, getLsbD_fifteen]
  split
  · rw [BitVec.toNat_xor, hshift]
    rfl
  · rw [hshift, Nat.xor_zero]

/-! ## The tolerant check (43_burst_crc.md R181) -/

/-- What the check of a payload followed by 16 bits takes as the payload and as the received CRC. -/
theorem crcCheck_append (maxHd : Nat) (p : List Bool) {c : List Bool} (hc : c.length = 16) :
    (crcCheck maxHd (p ++ c)).cn = crc16 p ∧ (crcCheck maxHd (p ++ c)).cr = crc16 p.reverse ∧
      (crcCheck maxHd (p ++ c)).rx.toNat = bitsVal c := by
  obtain ⟨hcn, hcr, hrx, -⟩ := crcCheck_spec maxHd (p ++ c)
  obtain ⟨hpayload, hreceived⟩ := slice_append p c
  have hlen : (p ++ c).length - 16 = p.length := by rw [List.length_append, hc, Nat.add_sub_cancel]
  have hlt : bitsVal c < 2 ^ 16 := hc ▸ bitsVal_lt c
  rw [hlen, hpayload] at hcn hcr
  rw [hlen, hreceived] at hrx
  exact ⟨hcn, hcr, by rw [hrx, BitVec.toNat_ofNat, Nat.mod_eq_of_lt hlt]⟩

theorem crcCheck_distances (maxHd : Nat) (d : List Bool) :
    (crcCheck maxHd d).hn = ones16 ((crcCheck maxHd d).cn ^^^ (crcCheck maxHd d).rx) ∧
      (crcCheck maxHd d).hr = ones16 ((crcCheck maxHd d).cr ^^^ (crcCheck maxHd d).rx) := by
  obtain ⟨-, -, -, hn, hr, -⟩ := crcCheck_spec maxHd d
  exact ⟨hn.trans (popcount16_eq_ones16 _), hr.trans (popcount16_eq_ones16 _)⟩

/-- The distance fields of CRC_RESULT hold the whole distances. -/
theorem toNat_crcCheck_result (maxHd : Nat) (d : List Bool) :
    (crcCheck maxHd d).result.hdNat.toNat = (crcCheck maxHd d).hn ∧
      (crcCheck maxHd d).result.hdRev.toNat = (crcCheck maxHd d).hr := by
  obtain ⟨-, -, -, hn, hr, -⟩ := crcCheck_spec maxHd d
  have hnle : (crcCheck maxHd d).hn ≤ 16 := hn ▸ popcount16_le _
  have hrle : (crcCheck maxHd d).hr ≤ 16 := hr ▸ popcount16_le _
  simp only [CrcReport.result, BitVec.toNat_ofNat]
  omega

/-- The check of `n` bits of a bit function leaves in CRC_VALUE and CRC_RESULT what 43_burst_crc.md R181 says. -/
theorem crcCheck_isCrcOutcome (maxHd : Nat) {n : Nat} (hn : 16 ≤ n) (f : Nat → Bool) :
    IsCrcOutcome n maxHd f (crcCheck maxHd ((List.range n).map f)).value
      (crcCheck maxHd ((List.range n).map f)).result := by
  have hsplit : (List.range n).map f =
      (List.range (n - 16)).map f ++ (List.range 16).map fun t => f (n - 16 + t) := by
    conv_lhs => rw [← Nat.sub_add_cancel hn, List.range_add, List.map_append, List.map_map]
    rfl
  obtain ⟨hcn, hcr, hrx⟩ := crcCheck_append maxHd ((List.range (n - 16)).map f)
    (c := (List.range 16).map fun t => f (n - 16 + t)) (by simp)
  rw [← hsplit] at hcn hcr hrx
  obtain ⟨-, -, -, -, -, hok, horder⟩ := crcCheck_spec maxHd ((List.range n).map f)
  obtain ⟨hdn, hdr⟩ := crcCheck_distances maxHd ((List.range n).map f)
  obtain ⟨hnat, hrev⟩ := toNat_crcCheck_result maxHd ((List.range n).map f)
  rw [bitsVal_map_range] at hrx
  rw [IsCrcOutcome, hnat, hrev]
  exact ⟨hcn, hcr, hrx, hdn, hdr, hok, horder⟩

/-! ## The burst (43_burst_crc.md R183 to R186) -/

theorem State.burstBits_eq (s : State) : s.burstBits = (List.range 510).map (burstBit s) := rfl

theorem State.burstTraining_eq (s : State) :
    s.burstTraining = (List.range (if s.isSyncBurst then 22 else 14)).map fun u => burstBit s (108 + u) := by
  rw [State.burstTraining, State.burstBits_eq, slice_map_range _ (by omega), slice_map_range _ (by omega)]
  split <;> rfl

theorem State.burstData_eq (s : State) : s.burstData = (List.range 216).map (burstDataBit s) := by
  have hhead : (List.range 108).map (burstDataBit s) = slice s.burstBits 0 108 := by
    rw [State.burstBits_eq, slice_map_range _ (by omega)]
    refine List.map_congr_left fun t ht => ?_
    rw [burstDataBit, if_pos (List.mem_range.1 ht), Nat.zero_add]
  have htail : (List.range 108).map (fun t => burstDataBit s (108 + t)) = slice s.burstBits 122 230 := by
    rw [State.burstBits_eq, slice_map_range _ (by omega)]
    refine List.map_congr_left fun t _ => ?_
    rw [burstDataBit, if_neg (by omega), Nat.add_right_comm]
  calc s.burstData
    _ = (List.range 108).map (burstDataBit s) ++ (List.range 108).map fun t => burstDataBit s (108 + t) := by
      rw [State.burstData, hhead, htail]
    _ = (List.range (108 + 108)).map (burstDataBit s) := by
      rw [List.range_add, List.map_append, List.map_map]
      rfl

theorem State.midMatch_eq_matchAt (s : State) : s.midMatch = matchAt s (s.burst.start.toNat + 244) := by
  refine s.windowCount_eq_matchAt (by rw [length_slice, State.length_burstBits]; rfl) fun t ht => ?_
  rw [getD_slice _ _ _ _ (by omega), State.burstBits, Memory.getD_sbits _ _ _ _ (by rw [Config.burstBits]; omega),
    Nat.add_assoc]

theorem State.isSyncBurst_iff (s : State) :
    s.isSyncBurst = true ↔ 22 * s.burst.syncThr.toNat < 1000 * s.midMatch := decide_eq_true_iff

theorem State.toNat_burstOutputs_midMatch (s : State) : s.burstOutputs.burstResult.midMatch.toNat = s.midMatch := by
  have hle := s.midMatch_le
  rw [State.burstOutputs_burstResult, BitVec.toNat_ofNat, Nat.mod_eq_of_lt (by omega)]

/-- The classifier of 43_burst_crc.md R184 has two outcomes, each with its length of the training sequence (R185). -/
theorem State.burstOutputs_type (s : State) :
    s.burstOutputs.burstResult.btype = (if s.isSyncBurst then 4#3 else 1#3) ∧
      s.burstOutputs.burstResult.tsLen.toNat = s.burstTraining.length := by
  rw [State.burstOutputs_burstResult, State.burstType, State.length_burstTraining]
  split <;> exact ⟨rfl, rfl⟩

theorem State.toNat_burstOutputs_burstTs (s : State) :
    s.burstOutputs.burstTs.toNat = bitsNat s.burstTraining.length fun u => burstBit s (108 + u) := by
  have hle : s.burstTraining.length ≤ 22 := by rw [State.length_burstTraining]; split <;> decide
  have hlt : bitsVal s.burstTraining < 2 ^ 22 :=
    Nat.lt_of_lt_of_le (bitsVal_lt _) (Nat.pow_le_pow_right (by decide) hle)
  rw [State.burstOutputs_burstTs, BitVec.toNat_ofNat, Nat.mod_eq_of_lt hlt, State.length_burstTraining,
    State.burstTraining_eq, bitsVal_map_range]

theorem State.bbit_burstOutputs (s : State) (j : Nat) :
    s.burstOutputs.mem.bbit j = if j < 216 then burstDataBit s j else s.mem.bbit j := by
  rw [Memory.bbit, State.burstOutputs_mem, Memory.bit_setBits, State.length_burstData]
  by_cases hj : j < 216
  · rw [if_pos (by omega), if_pos hj, State.burstData_eq]
    simp [List.getD_eq_getElem?_getD, hj]
  · rw [if_neg (by omega), if_neg hj, Memory.bbit]

theorem State.byte_burstOutputs (s : State) {a : Nat} (h : a < bitbufBase ∨ bitbufBase + 28 ≤ a) :
    s.burstOutputs.mem.byte a = s.mem.byte a := by
  rw [State.burstOutputs_mem, Memory.byte_setBits_below]
  rwa [State.length_burstData]

theorem State.burstReport_eq (s : State) :
    s.burstReport = crcCheck s.crc.maxHd.toNat ((List.range 216).map (burstDataBit s)) := by
  rw [State.burstReport, State.burstData_eq]

end Sys2Proof.Machine

namespace Sys2Proof.Proofs

open Sys2Proof.Machine Sys2Proof.Spec

/-- Settles O28: the slices of the burst, as bits of the symbol bit view, are the outputs of the completion. -/
theorem burstSplitsTheBurstAndChecksItsCrc : Obligations.BurstSplitsTheBurstAndChecksItsCrc := by
  intro s hcount hlen
  have hc : s.burstCheck = none := s.burstCheck_eq_none.2 ⟨hcount, hlen⟩
  obtain ⟨htype, htsLen⟩ := s.burstOutputs_type
  refine ⟨s.burstOutputs.complete .ok 0#32, s.midMatch, s.burstTraining.length, exec_of_ok (i := .burst) hc,
    State.complete_completes s.burstOutputs_irq .ok 0#32, s.outputsOf_complete_keepsOperands .burst .ok 0#32,
    s.midMatch_eq_matchAt, s.toNat_burstOutputs_midMatch, fun hsync => ?synchronization, fun hnormal => ?downlink,
    htsLen, s.toNat_burstOutputs_burstTs, fun j hj => ?data, fun j hj => ?others, fun a ha => ?bytes, ?crc, ?_⟩
  case synchronization =>
    have hs : s.isSyncBurst = true := s.isSyncBurst_iff.2 hsync
    rw [State.complete_burstResult, htype, State.length_burstTraining, if_pos hs, if_pos hs]
    exact ⟨rfl, rfl⟩
  case downlink =>
    have hs : ¬s.isSyncBurst = true := mt s.isSyncBurst_iff.1 (Nat.not_lt.2 hnormal)
    rw [State.complete_burstResult, htype, State.length_burstTraining, if_neg hs, if_neg hs]
    exact ⟨rfl, rfl⟩
  case data => rw [State.complete_mem, State.bbit_burstOutputs, if_pos hj]
  case others => rw [State.complete_mem, State.bbit_burstOutputs, if_neg (Nat.not_lt.2 hj)]
  case bytes => rw [State.complete_mem, s.byte_burstOutputs ha]
  case crc =>
    rw [State.complete_crcValue, State.complete_crcResult, State.burstOutputs_crcValue, State.burstOutputs_crcResult,
      State.burstReport_eq]
    exact crcCheck_isCrcOutcome _ (by decide) _
  simp [CrcReport.result]

/-- Settles O29: the one check, or the two CRCs of the bits and of the bits reversed. -/
theorem crcGenWritesBothCrcs : Obligations.CrcGenWritesBothCrcs := by
  refine ⟨decode_encode .crcGen, fun s => ⟨fun hbig => ?_, fun hfits => ?_⟩⟩
  · have hcheck : s.checkOf .crcGen = some (.config, 0x070#32) := if_pos hbig
    exact ⟨_, exec_of_check hcheck, s.complete_failsWith .config 0x070#32⟩
  · have hcheck : s.checkOf .crcGen = none := if_neg (Nat.not_lt.2 hfits)
    refine ⟨_, exec_of_ok hcheck, State.complete_completes s.crcGenOutputs_irq .ok 0#32,
      s.outputsOf_complete_keepsOperands .crcGen .ok 0#32, rfl, rfl, ?_, rfl⟩
    constructor <;> rfl

/-- Settles O30: the two checks in order, or the tolerant check of the first N bits. -/
theorem crcCheckReportsBothOrders : Obligations.CrcCheckReportsBothOrders := by
  refine ⟨decode_encode .crcCheck, fun s => ⟨fun hbig => ?_, fun hshort => ?_, fun hlong hfits => ?_⟩⟩
  · have hcheck : s.checkOf .crcCheck = some (.config, 0x070#32) := if_pos hbig
    exact ⟨_, exec_of_check hcheck, s.complete_failsWith .config 0x070#32⟩
  · have hfits : ¬Config.bitCap < s.crc.nbits.toNat := by rw [Config.bitCap]; omega
    have hcheck : s.checkOf .crcCheck = some (.noResult, 0#32) := (if_neg hfits).trans (if_pos hshort)
    exact ⟨_, exec_of_check hcheck, s.complete_failsWith .noResult 0#32⟩
  · have hcheck : s.checkOf .crcCheck = none := (if_neg (Nat.not_lt.2 hfits)).trans (if_neg (Nat.not_lt.2 hlong))
    refine ⟨_, exec_of_ok hcheck, State.complete_completes s.crcCheckOutputs_irq .ok 0#32,
      s.outputsOf_complete_keepsOperands .crcCheck .ok 0#32, crcCheck_isCrcOutcome _ hlong s.mem.bbit, ?_, rfl⟩
    constructor <;> rfl

/-- Settles O31, by the step of the register on the last bit. -/
theorem crcRegisterFollowsTheShiftRule : Obligations.CrcRegisterFollowsTheShiftRule :=
  ⟨rfl, fun p b => by rw [crc16_append_one, toNat_crcStep]⟩

/-- Settles O32: the received CRC is the payload's own XOR e, so that the natural difference is e. -/
theorem crcRoundTripCountsExactlyTheFlippedBits : Obligations.CrcRoundTripCountsExactlyTheFlippedBits := by
  intro p e maxHd
  obtain ⟨hcn, -, hrxNat⟩ := crcCheck_append maxHd p (length_natBits 16 (crc16 p ^^^ e).toNat)
  generalize p ++ natBits 16 (crc16 p ^^^ e).toNat = d at *
  obtain ⟨-, -, -, -, -, hok, horder⟩ := crcCheck_spec maxHd d
  have hrx : (crcCheck maxHd d).rx = crc16 p ^^^ e :=
    BitVec.eq_of_toNat_eq (by rw [hrxNat, bitsVal_natBits, Nat.mod_eq_of_lt (crc16 p ^^^ e).isLt])
  have hdiff : (crcCheck maxHd d).cn ^^^ (crcCheck maxHd d).rx = e := by
    rw [hcn, hrx, ← BitVec.xor_assoc, BitVec.xor_self, BitVec.zero_xor]
  have hhn : (crcCheck maxHd d).hn = ones16 e := by rw [(crcCheck_distances maxHd d).1, hdiff]
  refine ⟨hhn, hcn, fun hle => ?_⟩
  rw [← hhn] at hle
  exact ⟨hok.2 (.inl hle), Bool.eq_false_iff.2 fun h => Nat.not_lt.2 hle (horder.1 h).1⟩

/-- Settles O27: the first check that fails completes the command with its code. -/
theorem burstRefusesBadConfigurationOrShortInput : Obligations.BurstRefusesBadConfigurationOrShortInput := by
  intro s
  refine ⟨fun hcount => ?_, fun hcount hshort => ?_⟩
  · have hcheck : s.burstCheck = some (.config, 0x030#32) := if_pos hcount
    exact ⟨_, exec_of_check (i := .burst) hcheck, s.complete_failsWith .config 0x030#32⟩
  · have hcheck : s.burstCheck = some (.noResult, 0#32) := (if_neg (Nat.not_lt.2 hcount)).trans (if_pos hshort)
    exact ⟨_, exec_of_check (i := .burst) hcheck, s.complete_failsWith .noResult 0#32⟩

end Sys2Proof.Proofs
end

section
/-! PROOFS. TEA_KEY, TEA_DEC and TEA_BLK (44_tea.md R210 to R223): O33 to O40. -/

namespace Sys2Proof.Machine

open Sys2Proof.Spec

/-- A check that fails completes the command with its code and info value, and nothing else changes. -/
theorem exec_failsWith_of_check {i : Instr} {s : State} {c : Code} {v : Word} (h : s.checkOf i = some (c, v)) :
    ∃ t, exec i s = .next t ∧ FailsWith s t c.byte v :=
  ⟨_, exec_of_check h, s.complete_failsWith c v⟩

/-! ## Blocks and their words (44_tea.md R213) -/

theorem beBytes_beWord (b0 b1 b2 b3 : Byte) : beBytes (beWord b0 b1 b2 b3) = [b0, b1, b2, b3] := by
  simp (disch := decide) only [beBytes, beWord, BitVec.extractLsb'_append_eq_of_add_le,
    BitVec.extractLsb'_append_eq_of_le]
  simp

theorem unpackBlock_packBlock (h : Halves) : unpackBlock (packBlock h) = h := by
  have hword (w : Word) : beWord (wordByte w 3) (wordByte w 2) (wordByte w 1) (wordByte w 0) = w := wordByte_join w
  exact congrArg₂ Halves.mk (hword h.v0) (hword h.v1)

theorem packBlock_unpackBlock {b : List Byte} (hb : b.length = 8) : packBlock (unpackBlock b) = b := by
  rw [packBlock, unpackBlock, beBytes_beWord, beBytes_beWord]
  refine List.ext_getElem hb.symm fun j hj _ => ?_
  simp only [List.length_append, List.length_cons, List.length_nil] at hj
  interval_cases j <;> simp [List.getD_eq_getElem?_getD, hb]

/-- Two blocks with the same eight bytes are equal. -/
theorem block_ext {b c : List Byte} (hb : b.length = 8) (hc : c.length = 8)
    (h : ∀ j, j < 8 → b.getD j 0#8 = c.getD j 0#8) : b = c :=
  List.ext_getElem (hb.trans hc.symm) fun j hj hj' => by
    simpa [List.getD_eq_getElem?_getD, hj, hj'] using h j (hb ▸ hj)

theorem Memory.getD_cinBlock (m : Memory) (i : Nat) {j : Nat} (hj : j < 8) :
    (m.cinBlock i).getD j 0#8 = m.cin (8 * i + j) := by
  simp [Memory.cinBlock, List.getD_eq_getElem?_getD, hj]

theorem TeaRegs.getD_ivBytes (r : TeaRegs) {j : Nat} (hj : j < 8) : r.ivBytes.getD j 0#8 = r.ivByte j := by
  simp [TeaRegs.ivBytes, List.getD_eq_getElem?_getD, hj]

/-! ## The default transforms (44_tea.md R216) and the reference encryptor -/

/-- The key words that the algorithm selects (44_tea.md R212). -/
def LatchedKey.keyWords (k : LatchedKey) : KeyWords := if k.alg.toNat = 0 then tea1Words k else tea2Words k

/-- The defaults of both transforms are one function (44_tea.md R216, R217): D depends on the key only through its key
words. -/
theorem teaBlockDec_eq (k : LatchedKey) (b : List Byte) :
    teaBlockDec k b = packBlock (teaDefaultDec (unpackBlock b) k.keyWords) := by
  rw [teaBlockDec, blockDec, LatchedKey.keyWords]
  split <;> rfl

theorem encWith_eq (k : LatchedKey) (b : List Byte) : encWith k b = teaEnc b k.keyWords := rfl

/-- A decryption round undoes the encryption round with the same sum: each half-round subtracts the mixing term that was
added. -/
theorem teaRound_encRound (k : KeyWords) (sum : Word) (h : Halves) : teaRound k sum (encRound k sum h) = h := by
  simp only [teaRound, encRound, teaMix, BitVec.add_sub_cancel]

theorem ofNat_succ_mul_delta (n : Nat) :
    BitVec.ofNat 32 (n + 1) * teaDelta = BitVec.ofNat 32 n * teaDelta + teaDelta := by
  rw [BitVec.ofNat_add, BitVec.add_mul, BitVec.one_mul]

/-- The rounds with the last one apart: n rounds before it have lowered the sum by n times delta. -/
theorem teaRounds_succ (k : KeyWords) (n : Nat) (sum : Word) (h : Halves) :
    teaRounds k (n + 1) sum h = teaRound k (sum - BitVec.ofNat 32 n * teaDelta) (teaRounds k n sum h) := by
  induction n generalizing sum h with
  | zero => simp [teaRounds]
  | succ n ih =>
    have hsum : sum - teaDelta - BitVec.ofNat 32 n * teaDelta = sum - BitVec.ofNat 32 (n + 1) * teaDelta := by
      rw [ofNat_succ_mul_delta]; abel
    rw [teaRounds, ih, hsum, teaRounds]

/-- The decryption rounds undo the encryption rounds: the first round undone is the last one made, and its sum is n times
delta above the sum before the encryption. -/
theorem teaRounds_encRounds (k : KeyWords) (n : Nat) (sum : Word) (h : Halves) :
    teaRounds k n (sum + BitVec.ofNat 32 n * teaDelta) (encRounds k n sum h) = h := by
  induction n generalizing sum h with
  | zero => rfl
  | succ n ih =>
    have hstart : sum + BitVec.ofNat 32 (n + 1) * teaDelta = sum + teaDelta + BitVec.ofNat 32 n * teaDelta := by
      rw [ofNat_succ_mul_delta]; abel
    have hlast : sum + teaDelta + BitVec.ofNat 32 n * teaDelta - BitVec.ofNat 32 n * teaDelta = sum + teaDelta :=
      BitVec.add_sub_cancel _ _
    rw [hstart, teaRounds_succ, hlast]
    exact (congrArg _ (ih _ _)).trans (teaRound_encRound _ _ _)

theorem teaDefaultDec_encRounds (k : KeyWords) (h : Halves) : teaDefaultDec (encRounds k 32 0#32 h) k = h :=
  teaRounds_encRounds k 32 0#32 h

/-- D inverts the reference encryptor of 95_test_vectors.md section 8. -/
theorem teaBlockDec_encWith (k : LatchedKey) {b : List Byte} (hb : b.length = 8) : teaBlockDec k (encWith k b) = b := by
  rw [teaBlockDec_eq, encWith_eq, teaEnc, unpackBlock_packBlock, teaDefaultDec_encRounds, packBlock_unpackBlock hb]

/-! ## What TEA_DEC and TEA_BLK write (44_tea.md R219, R222) -/

/-- The checks of TEA_DEC pass: it writes its outputs, whatever the transforms are. -/
theorem execWith_teaDec_of_legal {s : State} (hv : s.lk.valid = true) (hle : s.tea.len.toNat ≤ 512)
    (hmod : s.tea.len.toNat % 8 = 0) (x : TeaTransforms) :
    execWith x .teaDec s = .next ((s.teaDecOutputs x).complete .ok 0#32) := by
  have hc : s.teaDecCheck = none := s.teaDecCheck_eq_none.2 ⟨hv, hle, hmod⟩
  rw [execWith, teaDecWith_eq, hc]

/-- The checks of TEA_BLK pass: it writes its outputs, whatever the transforms are. -/
theorem execWith_teaBlk_of_legal {s : State} (hv : s.lk.valid = true) (hlen : s.tea.len.toNat = 8) (x : TeaTransforms) :
    execWith x .teaBlk s = .next ((s.teaBlkOutputs x).complete .ok 0#32) := by
  have hc : s.teaBlkCheck = none := s.teaBlkCheck_eq_none.2 ⟨hv, hlen⟩
  rw [execWith, teaBlkWith_eq, hc]

/-- A plaintext byte is the decrypted byte XOR the feedback of its mode. -/
theorem State.getD_teaPlain (s : State) (x : TeaTransforms) {i j : Nat} (hi : i < s.teaBlocks) (hj : j < 8) :
    ((s.teaPlain x).getD i []).getD j 0#8 =
      (blockDec x s.lk (s.mem.cinBlock i)).getD j 0#8 ^^^ feedback s i j := by
  have hblock {n : Nat} (hn : n < s.teaBlocks) :
      ((List.range s.teaBlocks).map fun i => s.mem.cinBlock i).getD n [] = s.mem.cinBlock n := by
    simp [List.getD_eq_getElem?_getD, hn]
  rw [State.teaPlain, chainDec, feedback]
  cases s.tea.cbc with
  | false =>
    rw [if_neg Bool.false_ne_true, if_neg Bool.false_ne_true, BitVec.xor_zero]
    simp [List.getD_eq_getElem?_getD, hi]
  | true =>
    rw [if_pos rfl, if_pos rfl, getD_cbcDec _ _ _ _ (by simpa using hi), hblock hi]
    by_cases h0 : i = 0
    · rw [if_pos h0, if_pos h0, getD_xorBytes _ _ _ (by simpa using hj) (by simpa using hj), s.tea.getD_ivBytes hj]
    · rw [if_neg h0, if_neg h0, hblock (by omega), getD_xorBytes _ _ _ (by simpa using hj) (by simpa using hj),
        s.mem.getD_cinBlock _ hj]

theorem State.cout_teaDecOutputs (s : State) (x : TeaTransforms) {i j : Nat} (hi : i < s.teaBlocks) (hj : j < 8) :
    (s.teaDecOutputs x).mem.cout (8 * i + j) =
      (blockDec x s.lk (s.mem.cinBlock i)).getD j 0#8 ^^^ feedback s i j := by
  rw [Memory.cout, State.teaDecOutputs_mem, Memory.byte_setBytes, State.length_teaPlain_flatten,
    if_pos (by omega), Nat.add_sub_cancel_left,
    getD_flatten_blocks _ (s.length_mem_teaPlain x) i j (by rwa [State.length_teaPlain]) hj, s.getD_teaPlain x hi hj]

theorem State.byte_teaDecOutputs (s : State) (x : TeaTransforms) {a : Nat}
    (ha : a < coutBase ∨ coutBase + 8 * s.teaBlocks ≤ a) : (s.teaDecOutputs x).mem.byte a = s.mem.byte a := by
  rw [State.teaDecOutputs_mem, Memory.byte_setBytes, State.length_teaPlain_flatten, if_neg (by omega)]

/-- A completed TEA_DEC of a legal length, for any transforms. -/
theorem State.teaDecOutputs_result {s : State} (x : TeaTransforms) (hle : s.tea.len.toNat ≤ 512)
    (hmod : s.tea.len.toNat % 8 = 0) :
    TeaDecResult (blockDec x s.lk) s ((s.teaDecOutputs x).complete .ok 0#32) where
  completes := State.complete_completes (s.teaDecOutputs_irq x) .ok 0#32
  operands := by constructor <;> simp
  plain i j hi hj := by rw [State.complete_mem, s.cout_teaDecOutputs x hi hj]
  otherBytes a ha := by
    have hlen : 8 * s.teaBlocks = s.tea.len.toNat := by rw [State.teaBlocks]; omega
    rw [State.complete_mem, s.byte_teaDecOutputs x (by rwa [hlen])]
  count := by
    rw [State.complete_teaNblk, State.teaDecOutputs_teaNblk, BitVec.toNat_ofNat, State.teaBlocks,
      Nat.mod_eq_of_lt (by omega)]
  results := by constructor <;> simp

/-- A completed TEA_BLK, for any transforms. -/
theorem State.teaBlkOutputs_result (s : State) (x : TeaTransforms) :
    TeaBlkResult (blockDec x s.lk) s ((s.teaBlkOutputs x).complete .ok 0#32) where
  completes := State.complete_completes (s.teaBlkOutputs_irq x) .ok 0#32
  operands := by constructor <;> simp
  plain j hj := by
    rw [State.complete_mem, Memory.cout, State.teaBlkOutputs_mem, Memory.byte_setBytes, length_blockDec,
      if_pos (by omega), Nat.add_sub_cancel_left]
  otherBytes a ha := by
    rw [State.complete_mem, State.teaBlkOutputs_mem, Memory.byte_setBytes, length_blockDec, if_neg (by omega)]
  count := by simp
  results := by constructor <;> simp

/-! ## Keys (44_tea.md R210, R214, R215) -/

/-- The legal pairs of an algorithm and a key length, spelled out (44_tea.md R210). -/
theorem State.teaKeyCheck_eq_none_of_legal {s : State}
    (h : (s.tea.alg.toNat = 0 ∧ s.tea.keyLen.toNat = 10) ∨
      (1 ≤ s.tea.alg.toNat ∧ s.tea.alg.toNat ≤ 3 ∧ s.tea.keyLen.toNat = 16)) : s.teaKeyCheck = none := by
  rw [State.teaKeyCheck_eq_none, requiredKeyLength]
  split <;> omega

/-- A known algorithm with another key length than its own fails the second check (44_tea.md R210). -/
theorem State.teaKeyCheck_of_wrong_length {s : State} (halg : s.tea.alg.toNat < 4)
    (hlen : s.tea.keyLen.toNat ≠ requiredKeyLength s.tea.alg) :
    s.teaKeyCheck = some (.keyLength, s.tea.keyLen.setWidth 32) :=
  (if_neg (Nat.not_le.2 halg)).trans (if_pos hlen)

/-- A TEA2 key word whose upper two bytes are 0 is a TEA1 key word. -/
theorem beWord_zero_zero (b0 b1 : Byte) : beWord 0#8 0#8 b0 b1 = 0#16 ++ b0 ++ b1 := rfl

theorem tea1Words_congr {k k' : LatchedKey} (h : ∀ i, i < 8 → k'.byte i = k.byte i) : tea1Words k' = tea1Words k := by
  have hword {j : Nat} (hj : j < 4) : tea1Word k' j = tea1Word k j := by
    rw [tea1Word, tea1Word, h _ (by omega), h _ (by omega)]
  simp (disch := decide) only [tea1Words, hword]

theorem tea2Words_eq_tea1Words {k k' : LatchedKey}
    (h : ∀ j, j < 4 → k'.byte (4 * j) = 0#8 ∧ k'.byte (4 * j + 1) = 0#8 ∧ k'.byte (4 * j + 2) = k.byte (2 * j) ∧
      k'.byte (4 * j + 3) = k.byte (2 * j + 1)) : tea2Words k' = tea1Words k := by
  have hword {j : Nat} (hj : j < 4) : tea2Word k' j = tea1Word k j := by
    obtain ⟨h0, h1, h2, h3⟩ := h j hj
    rw [tea2Word, tea1Word, h0, h1, h2, h3, beWord_zero_zero]
  simp (disch := decide) only [tea2Words, tea1Words, hword]

end Sys2Proof.Machine

namespace Sys2Proof.Proofs

open Sys2Proof.Machine Sys2Proof.Spec

/-- Settles O34: the checks pass, and the only output is the new key. -/
theorem teaKeyLatchesTheKey : Obligations.TeaKeyLatchesTheKey := by
  intro s hlegal
  have hc : s.teaKeyCheck = none := State.teaKeyCheck_eq_none_of_legal hlegal
  have hirq : (s.outputsOf .teaKey).irq = s.irq := rfl
  refine ⟨(s.outputsOf .teaKey).complete .ok 0#32, exec_of_ok (i := .teaKey) hc,
    State.complete_completes hirq .ok 0#32, s.outputsOf_complete_keepsOperands .teaKey .ok 0#32, rfl, rfl, rfl,
    fun i hi => s.newKey_byte i hi, ?_, rfl⟩
  constructor <;> rfl

/-- Settles O36: the result of the machine with given transforms, of which `exec` is the one at the defaults. -/
theorem teaDecWritesEcbOrCbcPlaintext : Obligations.TeaDecWritesEcbOrCbcPlaintext := by
  refine ⟨decode_encode .teaDec, fun s hv hle hmod => ?_⟩
  have hresult (x : TeaTransforms) : ∃ t, execWith x .teaDec s = .next t ∧ TeaDecResult (blockDec x s.lk) s t :=
    ⟨_, execWith_teaDec_of_legal hv hle hmod x, State.teaDecOutputs_result x hle hmod⟩
  exact ⟨exec_eq_execWith .teaDec s ▸ hresult .defaults, hresult⟩

/-- Settles O37: the two checks in order, or the result of the machine with given transforms. -/
theorem teaBlkDecryptsOneBlock : Obligations.TeaBlkDecryptsOneBlock := by
  refine ⟨decode_encode .teaBlk, fun s => ⟨fun hnokey => ?_, fun hv hlen => ?_, fun hv hlen => ?_⟩⟩
  · have hcheck : s.teaBlkCheck = some (.noKey, 0#32) := if_pos hnokey
    exact exec_failsWith_of_check (i := .teaBlk) hcheck
  · have hcheck : s.teaBlkCheck = some (.blockSize, s.tea.len.setWidth 32) :=
      (if_neg (by simp [hv])).trans (if_pos hlen)
    exact exec_failsWith_of_check (i := .teaBlk) hcheck
  · have hresult (x : TeaTransforms) : ∃ t, execWith x .teaBlk s = .next t ∧ TeaBlkResult (blockDec x s.lk) s t :=
      ⟨_, execWith_teaBlk_of_legal hv hlen x, s.teaBlkOutputs_result x⟩
    exact ⟨exec_eq_execWith .teaBlk s ▸ hresult .defaults, hresult⟩

/-- Settles O39: TEA_BLK decrypts the first ciphertext block, which is the encryption, and D inverts the encryptor. -/
theorem teaBlkInvertsTheReferenceEncryptor : Obligations.TeaBlkInvertsTheReferenceEncryptor := by
  intro s b hb hv hlen hcin
  obtain ⟨-, hblk⟩ := teaBlkDecryptsOneBlock
  obtain ⟨-, -, hok⟩ := hblk s
  obtain ⟨⟨t, ht, hresult⟩, -⟩ := hok hv hlen
  have hblock : s.mem.cinBlock 0 = encWith s.lk b :=
    block_ext (s.mem.length_cinBlock 0) rfl fun j hj => by
      rw [s.mem.getD_cinBlock 0 hj, Nat.mul_zero, Nat.zero_add, hcin j hj]
  refine ⟨t, ht, hresult.completes.code, fun j hj => ?_⟩
  rw [hresult.plain j hj, hblock, teaBlockDec_encWith s.lk hb]

/-- Settles O40: the two keys give the default transform the same key words. -/
theorem teaOneKeyIsItsFirstEightBytes : Obligations.TeaOneKeyIsItsFirstEightBytes := by
  intro k k' b halg hkeys
  have hwords : k'.keyWords = k.keyWords := by
    rw [LatchedKey.keyWords, LatchedKey.keyWords, if_pos halg]
    rcases hkeys with ⟨halg', hbytes⟩ | ⟨halg', -, hbytes⟩
    · rw [if_pos halg', tea1Words_congr hbytes]
    · rw [if_neg (Nat.one_le_iff_ne_zero.1 halg'), tea2Words_eq_tea1Words hbytes]
  rw [teaBlockDec_eq, teaBlockDec_eq, hwords]

/-- Settles O33: the first check that fails completes the command with its code. -/
theorem teaKeyRefusesUnknownAlgorithmsAndWrongLengths : Obligations.TeaKeyRefusesUnknownAlgorithmsAndWrongLengths := by
  intro s
  have hlength (halg : s.tea.alg.toNat < 4) (hlen : s.tea.keyLen.toNat ≠ requiredKeyLength s.tea.alg) :
      ∃ t, exec .teaKey s = .next t ∧ FailsWith s t 0x02#8 (s.tea.keyLen.setWidth 32) :=
    exec_failsWith_of_check (i := .teaKey) (State.teaKeyCheck_of_wrong_length halg hlen)
  refine ⟨fun hunknown => ?_, fun halg hlen => ?_, fun hlow hhigh hlen => ?_⟩
  · have hcheck : s.teaKeyCheck = some (.unknownAlg, s.tea.alg.setWidth 32) := if_pos hunknown
    exact exec_failsWith_of_check (i := .teaKey) hcheck
  · exact hlength (by omega) (by rwa [requiredKeyLength, if_pos halg])
  · exact hlength (by omega) (by rwa [requiredKeyLength, if_neg (by omega)])

/-- Settles O35: the first check that fails completes the command with its code. -/
theorem teaDecRefusesMissingKeysAndBadLengths : Obligations.TeaDecRefusesMissingKeysAndBadLengths := by
  intro s
  refine ⟨fun hnokey => ?_, fun hv hlong => ?_, fun hv hle hmod => ?_⟩
  · have hcheck : s.teaDecCheck = some (.noKey, 0#32) := if_pos hnokey
    exact exec_failsWith_of_check (i := .teaDec) hcheck
  · have hcheck : s.teaDecCheck = some (.config, 0x0A0#32) := (if_neg (by simp [hv])).trans (if_pos hlong)
    exact exec_failsWith_of_check (i := .teaDec) hcheck
  · have hcheck : s.teaDecCheck = some (.dataLength, s.tea.len.setWidth 32) :=
      (if_neg (by simp [hv])).trans ((if_neg (Nat.not_lt.2 hle)).trans (if_pos hmod))
    exact exec_failsWith_of_check (i := .teaDec) hcheck

/-- Settles O38: the selection of D by the algorithm, on key words that do not contain it. -/
theorem teaThreeAndFourAliasTeaTwo : Obligations.TeaThreeAndFourAliasTeaTwo := by
  intro x k b
  have hdec2 {k : LatchedKey} (h : 1 ≤ k.alg.toNat) :
      blockDec x k b = packBlock (x.dec2 (unpackBlock b) (tea2Words k)) := by
    rw [blockDec, if_neg (Nat.one_le_iff_ne_zero.1 h)]
  refine ⟨fun hlow _ => ⟨hdec2 hlow, fun a ha _ => ?_⟩, fun halg => ?_, rfl, rfl⟩
  · rw [hdec2 hlow, hdec2 (k := { k with alg := a }) ha]
    rfl
  · rw [blockDec, if_pos halg]

end Sys2Proof.Proofs
end

section
/-! PROOFS. Bus errors, interrupts and simultaneous events (60_exceptions.md R242 to R246): O8, O41, O53, O54, O55, O56. -/

namespace Sys2Proof.Machine

open Sys2Proof.Spec

/-! ## Bus errors -/

/-- An access that is not performed is answered with a bus error and has no other effect (60_exceptions.md R242). -/
theorem State.hostAccess_busError {s : State} {bytes off : Nat} (h : s.performs bytes off = false) (v : Word) :
    s.hostAccess (.read bytes off) = s.answer .busError ∧ s.hostAccess (.write bytes off v) = s.answer .busError := by
  simp [State.hostAccess, h]

/-- The accesses that are not performed (20_memory.md R70, 70_reset_and_hazards.md R260). -/
theorem State.performs_eq_false_iff {s : State} {bytes off : Nat} :
    s.performs bytes off = false ↔ bytes ≠ 4 ∨ off % 4 ≠ 0 ∨ 0x8000 ≤ off ∨ s.rstN = false := by
  rw [← Bool.not_eq_true, State.performs_iff]
  simp only [not_and_or, Nat.not_lt, Bool.not_eq_true, ne_eq]

/-! ## Completion steps -/

/-- A step whose completion is due has the effects of `complete` with some code, illegal command included. -/
theorem completes_of_step_due {s t : State} (h : step s = .next t) (he : s.eng = .running 0) (hr : s.rstN = true) :
    ∃ (c : Code) (v : Word), Completes s t c.byte v := by
  rcases step_cases h with ⟨-, -, i, -, hx⟩ | ⟨-, -, -, rfl⟩ | ⟨hturn, -⟩
  · obtain ⟨c, v, hcompletes, -⟩ := exec_completes hx
    exact ⟨c, v, hcompletes⟩
  · exact ⟨.badCommand, s.cmd, (s.complete_failsWith .badCommand s.cmd).completes⟩
  · simp [he, hr] at hturn

/-- Every other step is a turn of the outside world. -/
theorem eq_hostTurn_of_step_not_due {s t : State} (h : step s = .next t)
    (hdue : ¬(s.eng = .running 0 ∧ s.rstN = true)) : t = s.hostTurn := by
  rcases step_cases h with ⟨hr, he, -⟩ | ⟨hr, he, -⟩ | ⟨-, ht⟩
  · exact absurd ⟨he, hr⟩ hdue
  · exact absurd ⟨he, hr⟩ hdue
  · exact ht

/-- ERR after a completion, in terms of the code it leaves in STATUS.CODE (60_exceptions.md R243). -/
theorem State.irqErr_of_completes {s t : State} {c : Byte} {v : Word} (h : Completes s t c v) :
    t.irq.err = (s.irq.err || decide (2 ≤ t.status.code.toNat)) := by
  rw [h.code, h.irqErr]

/-! ## The interrupt flags by their bits in IRQ_STATUS -/

/-- The interrupt flag at a bit of IRQ_STATUS, DONE at bit 0 and ERR at bit 1; a reserved bit is 0 (10_state.md R26). -/
def IrqRegs.flag (q : IrqRegs) : Nat → Bool
  | 0 => q.done
  | 1 => q.err
  | _ => false

@[simp] theorem IrqRegs.flag_reset (k : Nat) : State.reset.irq.flag k = false := by
  match k with
  | 0 | 1 | _ + 2 => rfl

/-- W1C clears the flags whose bits are 1 (10_state.md R26). -/
@[simp] theorem State.flag_ackIrq (s : State) (v : Word) (k : Nat) :
    (s.ackIrq v).irq.flag k = (s.irq.flag k && !v.getLsbD k) := by
  match k with
  | 0 | 1 | _ + 2 => rfl

/-- A completion clears no flag (60_exceptions.md R243). -/
theorem State.flag_of_completes {s t : State} {c : Byte} {v : Word} (h : Completes s t c v) {k : Nat}
    (hk : s.irq.flag k = true) : t.irq.flag k = true := by
  match k with
  | 0 => exact h.irqDone
  | 1 => exact h.irqErr.trans (Bool.or_eq_true_iff.2 (.inl hk))
  | _ + 2 => cases hk

/-- Of the plain register writes only that to IRQ_STATUS reaches a flag. -/
theorem State.flag_storeReg (s : State) (v : Word) {r : Reg} (hr : r ≠ .irqStatus) (k : Nat) :
    (s.storeReg v r).irq.flag k = s.irq.flag k := by
  cases r with
  | irqStatus => contradiction
  | irqEn =>
    match k with
    | 0 | 1 | _ + 2 => rfl
  | _ => rfl

/-! ## What clears a flag (60_exceptions.md R245) -/

/-- The inputs that clear the flag at a bit of IRQ_STATUS: an edge of `rst_n` to low, a write of 1 to the bit, and a write
of 1 to CTRL.SRST. -/
def ClearsFlag (k : Nat) (x : Input) : Prop :=
  x = .assertReset ∨ (∃ v : Word, x = .access (.write 4 0x010 v) ∧ v.getLsbD k = true) ∨
    ∃ v : Word, x = .access (.write 4 0x014 v) ∧ v.getLsbD 0 = true

/-- A write that takes effect leaves a flag alone, or it is an acknowledgement or a soft reset and the flag is clear. -/
theorem State.flag_storeWord (s : State) (off : Nat) (v : Word) (k : Nat) :
    (s.storeWord off v).irq.flag k = s.irq.flag k ∨
      ((s.storeWord off v).irq.flag k = false ∧ ClearsFlag k (.access (.write 4 off v))) := by
  rcases s.storeWord_cases off v with ⟨-, e⟩ | ⟨rfl, hv, e⟩ | ⟨r, rfl, -, -, e⟩ | ⟨-, e⟩ | e <;> rw [e]
  · exact .inl rfl
  · exact .inr ⟨by simp, .inr (.inr ⟨v, rfl, hv⟩)⟩
  · by_cases hr : r = .irqStatus
    · subst hr
      have hack : (s.storeReg v .irqStatus).irq.flag k = (s.irq.flag k && !v.getLsbD k) := s.flag_ackIrq v k
      cases hv : v.getLsbD k with
      | false => exact .inl (by rw [hack, hv, Bool.not_false, Bool.and_true])
      | true => exact .inr ⟨by rw [hack, hv, Bool.not_true, Bool.and_false], .inr (.inl ⟨v, rfl, hv⟩)⟩
    · exact .inl (s.flag_storeReg v hr k)
  · exact .inl rfl
  · exact .inl rfl

theorem State.flag_applyInput (s : State) (x : Input) (k : Nat) :
    (s.applyInput x).irq.flag k = s.irq.flag k ∨ ((s.applyInput x).irq.flag k = false ∧ ClearsFlag k x) := by
  cases x with
  | idle => exact .inl rfl
  | releaseReset => exact .inl rfl
  | assertReset => exact .inr ⟨IrqRegs.flag_reset k, .inl rfl⟩
  | access a =>
    rw [State.applyInput]
    rcases s.hostAccess_cases a with ⟨r, e | e⟩ | ⟨-, e⟩ | ⟨off, v, rfl, -, -, -, e⟩ <;> rw [e]
    · exact .inl rfl
    · exact .inl rfl
    · exact .inl rfl
    · exact s.flag_storeWord off v k

/-- A turn of the outside world sets no flag, and clears one only by an input that does. -/
theorem State.flag_hostTurn (s : State) (k : Nat) :
    s.hostTurn.irq.flag k = s.irq.flag k ∨
      (s.hostTurn.irq.flag k = false ∧ ∃ x rest, s.inputs = x :: rest ∧ ClearsFlag k x) := by
  rcases s.hostTurn_cases with ⟨-, e⟩ | ⟨x, rest, hin, e⟩ <;> rw [e]
  · exact .inl rfl
  · exact ((s.waited rest).flag_applyInput x k).imp_right fun ⟨hclear, hx⟩ => ⟨hclear, x, rest, hin, hx⟩

theorem State.flag_of_flag_hostTurn {s : State} {k : Nat} (h : s.hostTurn.irq.flag k = true) :
    s.irq.flag k = true := by
  rcases s.flag_hostTurn k with e | ⟨hclear, -⟩
  · rwa [← e]
  · simp [h] at hclear

/-- A step that clears a flag is a turn of the outside world whose input clears it. -/
theorem clearsFlag_of_step {s t : State} (h : step s = .next t) {k : Nat} (hset : s.irq.flag k = true)
    (hclear : t.irq.flag k = false) : ∃ x rest, s.inputs = x :: rest ∧ ClearsFlag k x := by
  by_cases hdue : s.eng = .running 0 ∧ s.rstN = true
  · obtain ⟨c, v, hcompletes⟩ := completes_of_step_due h hdue.1 hdue.2
    simp [State.flag_of_completes hcompletes hset] at hclear
  · obtain rfl := eq_hostTurn_of_step_not_due h hdue
    rcases s.flag_hostTurn k with e | ⟨-, hx⟩
    · simp [e, hset] at hclear
    · exact hx

end Sys2Proof.Machine

namespace Sys2Proof.Proofs

open Sys2Proof.Machine Sys2Proof.Spec

/-- Settles O8: each kind of turn answers a next state. -/
theorem everyStepAnswersANextState : Obligations.EveryStepAnswersANextState := by
  intro s
  simp only [State.continues, step]
  cases s.turn with
  | host => exact ⟨_, rfl⟩
  | command i => exact ⟨_, exec_eq i s⟩
  | illegal => exact ⟨_, rfl⟩

/-- Settles O41: these are exactly the accesses that are not performed. -/
theorem busErrorsChangeNothing : Obligations.BusErrorsChangeNothing :=
  fun _ _ _ v h => State.hostAccess_busError (State.performs_eq_false_iff.2 h) v

/-- Settles O53: the equation of `irq` read as a proposition. -/
theorem irqIsTheEnabledFlags : Obligations.IrqIsTheEnabledFlags := by
  intro s
  rw [State.irqLine, Bool.or_eq_true, Bool.and_eq_true, Bool.and_eq_true]

/-- Settles O54: a completion step has the effects of `complete`, and no turn of the outside world sets a flag. -/
theorem onlyCompletionsSetInterruptFlags : Obligations.OnlyCompletionsSetInterruptFlags := by
  intro s t h
  refine ⟨fun he hr => ?_, fun hdue => ?_⟩
  · obtain ⟨c, v, hcompletes⟩ := completes_of_step_due h he hr
    exact ⟨hcompletes.irqDone, State.irqErr_of_completes hcompletes⟩
  · obtain rfl := eq_hostTurn_of_step_not_due h hdue
    exact ⟨State.flag_of_flag_hostTurn (k := 0), State.flag_of_flag_hostTurn (k := 1)⟩

/-- Settles O55: DONE and ERR are the flags at bits 0 and 1. -/
theorem interruptFlagsStayUntilClearedOrReset : Obligations.InterruptFlagsStayUntilClearedOrReset :=
  fun _ _ h => ⟨clearsFlag_of_step h (k := 0), clearsFlag_of_step h (k := 1)⟩

/-- Settles O56: the acknowledgement only makes the command wait for one turn, whose completion then sets the flags; the soft
reset leaves no command to complete. -/
theorem simultaneousEventsResolveAsTheRuleSays : Obligations.SimultaneousEventsResolveAsTheRuleSays := by
  intro s x rest v hr he hin
  refine ⟨?_, ?_⟩
  · rintro rfl
    obtain ⟨u, hwait, hu⟩ := steps_running 1 he (by simp [hin, harmless])
    obtain ⟨t, hstep⟩ := everyStepAnswersANextState u
    obtain ⟨c, info, hcompletes⟩ := completes_of_step_due hstep hu.eng (hu.released hr)
    refine ⟨t, (steps_add hwait 1).trans (steps_one_of_step hstep), hcompletes.idle, hcompletes.irqDone, fun hcode => ?_⟩
    rw [State.irqErr_of_completes hcompletes, decide_eq_true hcode, Bool.or_true]
  · rintro rfl hv
    have hstep := step_host_cons (.inr (.inl ⟨0, he⟩)) hin
    rw [State.applyInput, State.hostAccess_softReset (s := s.waited rest) hr hv] at hstep
    exact ⟨_, steps_one_of_step hstep, rfl, rfl, rfl⟩

end Sys2Proof.Proofs
end

section
/-! PROOFS. The hardware reset (70_reset_and_hazards.md R260), what each command may write (R267) and the completion of a
started command (R270): O13, O14, O16, O51. -/

namespace Sys2Proof.Machine

open Sys2Proof.Spec

/-! ## What each command may write (70_reset_and_hazards.md R267) -/

/-- R267's list read as a frame: `t` differs from `s` in no output that the rule of `i` does not list. Of the buffers this
only says which commands write none; `ownBuffer` says which one the others write. -/
structure OnlyOwnOutputs (i : Instr) (s t : State) : Prop where
  demodOut : i ≠ .demod → t.demodOut = s.demodOut
  symCount : i ≠ .demod → t.symCount = s.symCount
  syncResult : i ≠ .sync → t.syncResult = s.syncResult
  burstResult : i ≠ .burst → t.burstResult = s.burstResult
  burstTs : i ≠ .burst → t.burstTs = s.burstTs
  crcValue : i ≠ .burst → i ≠ .crcGen → i ≠ .crcCheck → t.crcValue = s.crcValue
  crcResult : i ≠ .burst → i ≠ .crcCheck → t.crcResult = s.crcResult
  lk : i ≠ .teaKey → t.lk = s.lk
  teaNblk : i ≠ .teaDec → i ≠ .teaBlk → t.teaNblk = s.teaNblk
  mem : i ≠ .demod → i ≠ .sync → i ≠ .burst → i ≠ .teaDec → i ≠ .teaBlk → t.mem = s.mem

theorem OnlyOwnOutputs.refl (i : Instr) (s : State) : OnlyOwnOutputs i s s := by
  constructor <;> intros <;> rfl

/-- `complete` writes no output, so it adds none to those written before it (40_command.md R123). -/
theorem OnlyOwnOutputs.complete {i : Instr} {s t : State} (h : OnlyOwnOutputs i s t) (c : Code) (v : Word) :
    OnlyOwnOutputs i s (t.complete c v) :=
  ⟨h.demodOut, h.symCount, h.syncResult, h.burstResult, h.burstTs, h.crcValue, h.crcResult, h.lk, h.teaNblk, h.mem⟩

theorem State.outputsOf_onlyOwnOutputs (s : State) (i : Instr) : OnlyOwnOutputs i s (s.outputsOf i) := by
  cases i with
  | nop => exact .refl .nop s
  | _ => constructor <;> simp [State.outputsOf]

/-- A command that fails a check writes no output at all, and one that passes writes its own. -/
theorem exec_onlyOwnOutputs {i : Instr} {s t : State} (h : exec i s = .next t) : OnlyOwnOutputs i s t := by
  rcases exec_cases h with ⟨c, v, -, -, rfl⟩ | ⟨-, rfl⟩
  · exact (OnlyOwnOutputs.refl i s).complete c v
  · exact (s.outputsOf_onlyOwnOutputs i).complete .ok 0#32

theorem ownBuffer_iff {i : Instr} {r : Region} :
    ownBuffer i r ↔ (i = .demod ∧ r = .symbuf) ∨ (i = .sync ∧ r = .syncOut) ∨ (i = .burst ∧ r = .bitbuf) ∨
      ((i = .teaDec ∨ i = .teaBlk) ∧ r = .cout) := by
  cases i <;> simp [ownBuffer]

/-! ## Completion steps -/

/-- A completion step writes no operand register and takes no input, illegal command included. -/
theorem keepsOperands_of_step_due {s t : State} (h : step s = .next t) (he : s.eng = .running 0) (hr : s.rstN = true) :
    KeepsOperands s t := by
  rcases step_cases h with ⟨-, -, i, -, hx⟩ | ⟨-, -, -, rfl⟩ | ⟨hturn, -⟩
  · obtain ⟨c, v, -, hoperands⟩ := exec_completes hx
    exact hoperands
  · exact (s.complete_failsWith .badCommand s.cmd).operands
  · simp [he, hr] at hturn

/-! ## The hardware reset -/

/-- The hardware reset puts every register at its row of the reset column, where its release leaves it
(70_reset_and_hazards.md R260, 10_state.md R59). -/
theorem State.readReg_releaseReset_hardReset (s : State) (r : Reg) :
    s.hardReset.releaseReset.readReg r = resetValue r := by
  calc s.hardReset.releaseReset.readReg r = State.reset.readReg r := by cases r <;> rfl
    _ = resetValue r := Proofs.resetStateReadsTheResetColumn r

end Sys2Proof.Machine

namespace Sys2Proof.Proofs

open Sys2Proof.Machine Sys2Proof.Spec

/-- Settles O13: the frame of every command's outputs, taken apart. -/
theorem eachCommandWritesOnlyItsOwnOutputs : Obligations.EachCommandWritesOnlyItsOwnOutputs := by
  intro i s t h
  obtain ⟨hdemodOut, hsymCount, hsyncResult, hburstResult, hburstTs, hcrcValue, hcrcResult, hlk, hteaNblk, hmem⟩ :=
    exec_onlyOwnOutputs h
  exact ⟨fun hi => ⟨hdemodOut hi, hsymCount hi⟩, hsyncResult, fun hi => ⟨hburstResult hi, hburstTs hi⟩, hcrcValue,
    hcrcResult, hlk, hteaNblk, hmem⟩

/-- Settles O14: the four exceptions are exactly the commands with a buffer of their own. -/
theorem eachCommandWritesOnlyItsOwnBuffer : Obligations.EachCommandWritesOnlyItsOwnBuffer := by
  intro i s t a h hdemod hsync hburst htea
  have hown : ¬ownBuffer i (regionOf a) := by
    rw [ownBuffer_iff, not_or, not_or, not_or]
    exact ⟨hdemod, hsync, hburst, htea⟩
  exact exec_mem_frame h a hown

/-- Settles O16: the command waits for as many turns as its delay has, and the next step is its completion. -/
theorem startedCommandCompletes : Obligations.StartedCommandCompletes := by
  intro d s hr he hx
  obtain ⟨u, hwait, hu⟩ := steps_running d he hx
  have hur : u.rstN = true := hu.released hr
  obtain ⟨t, hstep⟩ := everyStepAnswersANextState u
  obtain ⟨c, info, hcompletes⟩ := completes_of_step_due hstep hu.eng hur
  have hoperands := keepsOperands_of_step_due hstep hu.eng hur
  exact ⟨t, (steps_add hwait 1).trans (steps_one_of_step hstep), hcompletes.idle, hcompletes.done, hcompletes.irqDone,
    hoperands.inputs.trans hu.inputs⟩

/-- Settles O51: the release of `rst_n` keeps what its fall has reset, whatever the state before. -/
theorem hardwareResetRestoresTheRegisters : Obligations.HardwareResetRestoresTheRegisters :=
  fun s => ⟨s.readReg_releaseReset_hardReset, rfl, rfl, rfl, rfl, rfl⟩

end Sys2Proof.Proofs
end
